-- ==== Sys2Proof/Word.lean ====
section
/-! DEFINITION. The word types of the block (00_scope.md section 5): bytes, single bits, and the pair of CRC
bytes in frame order. The block has no wider word (20_memory.md R34). -/

namespace Sys2Proof

/-- A byte, an unsigned 8-bit value with bit 0 the least significant (00_scope.md section 5). -/
abbrev Byte := BitVec 8

/-- One bit: the sequence bit SEQ and its copy in a PCB (10_state.md R14, 30_encoding.md R46). -/
abbrev Bit := BitVec 1

/-- The two bytes of a CRC in frame order, the low-order byte first (20_memory.md R31, 42_interfaces.md R95). -/
abbrev CrcPair := Byte × Byte

/-- A CRC primitive: a pure function from the covered bytes to the two CRC bytes (00_scope.md R6, 42_interfaces.md R95). -/
abbrev CrcFun := List Byte → CrcPair

end Sys2Proof
end

