-- ==== Sys2Proof/Config.lean ====
section
/-! DEFINITION. What an implementation fixes (00_scope.md section 4) and the free values the model leaves open:
the capacity of the frame buffers, the CRC primitive wired to the CRC port, the link's status type, the
link's draws and what the attempt registers hold outside an attempt. -/

namespace Sys2Proof

/-- Which function is wired to the CRC port. `crc16a` is a parameter of the spec (00_scope.md R6) whose default is
the CRC_A of 40_frame_codec.md R62; `external` is any other one, uninterpreted (log entry 2, PRESUMED default). -/
inductive CrcPrimitive where
  /-- The CRC_A of 40_frame_codec.md R62, from general knowledge (93_implementation_defined.md G1). -/
  | crcA
  /-- An uninterpreted primitive supplied from outside the block (`Config.crcExternal`). -/
  | external
deriving DecidableEq, Repr, Inhabited

/-- The build-time parameters of the block: fixed when it is built, written by no operation (10_state.md R13). -/
structure Params where
  /-- FRAME_BUF_CAP, the capacity of TX_BUF and of RX_BUF in bytes; OPEN, at least 4 (00_scope.md R1, log entry 1). -/
  frameBufCap : Nat
  /-- The CRC primitive (00_scope.md R6, log entry 2). -/
  crc : CrcPrimitive
deriving DecidableEq, Repr, Inhabited

/-- The only constraint on the parameters: FRAME_BUF_CAP is at least 4, so that the S(WTX) acknowledgement fits (00_scope.md R1). -/
abbrev Params.ok (p : Params) : Prop := 4 ≤ p.frameBufCap

/-- MAX_FRAME_PAYLOAD, the largest request payload the block accepts (00_scope.md R2). -/
def Params.maxFramePayload (p : Params) : Nat := p.frameBufCap - 3

/-- RX_CAP_BITS, the receive-buffer capacity in bits that the block passes to the link (00_scope.md R3). -/
def Params.rxCapBits (p : Params) : Nat := 8 * p.frameBufCap

/-- The parameters State.reset takes: the capacity 32 that 95_test_vectors.md assumes (DESIGN CHOICE, log entry 1,
unsafe for a statement that rests on it) and the spec's default CRC (PRESUMED, log entry 2). -/
def Params.default : Params := { frameBufCap := 32, crc := .crcA }

/-- LinkStatus: success or an error code the block never inspects (00_scope.md R7, log entry 3). -/
inductive LinkStatus where
  | success
  /-- A link-layer error code; opaque to the block (92_eei_decisions.md D19). -/
  | error (code : Nat)
deriving DecidableEq, Repr, Inhabited

/-- FREE VALUE. The CRC primitive supplied from outside when it is not the default one (00_scope.md R6, log entry 2). -/
opaque Config.crcExternal : List Byte → CrcPair

/-- FREE VALUE. The status of the n-th free draw of the physical link (42_interfaces.md R93, log entry 4). -/
opaque Config.linkStatus : Nat → LinkStatus

/-- FREE VALUE. The number that fixes the bit count of the n-th free draw (42_interfaces.md R93, log entry 4). -/
opaque Config.linkBits : Nat → Nat

/-- FREE VALUE. Byte i of the n-th free draw of the physical link (42_interfaces.md R93, log entry 4). -/
opaque Config.linkByte : Nat → Nat → Byte

/-! What the attempt registers hold in IDLE after the n-th free draw: `any value` (10_state.md R24, decision D27, log entry 7). -/

/-- FREE VALUE. The number that fixes WTX_CNT in IDLE (log entry 7). -/
opaque Config.idleWtxCnt : Nat → Nat

/-- FREE VALUE. The number that fixes TX_LEN in IDLE (log entry 7). -/
opaque Config.idleTxLen : Nat → Nat

/-- FREE VALUE. Byte i of TX_BUF in IDLE (log entry 7). -/
opaque Config.idleTxByte : Nat → Nat → Byte

/-- FREE VALUE. The number that fixes RX_BITS in IDLE (log entry 7). -/
opaque Config.idleRxBits : Nat → Nat

/-- FREE VALUE. Byte i of RX_BUF in IDLE (log entry 7). -/
opaque Config.idleRxByte : Nat → Nat → Byte

/-- FREE VALUE. RX_STATUS in IDLE (log entry 7). -/
opaque Config.idleRxStatus : Nat → LinkStatus

/-- FREE VALUE. MAX_RESP in IDLE (log entry 7). -/
opaque Config.idleMaxResp : Nat → Nat

end Sys2Proof
end

