-- ==== Sys2Proof/Syntax.lean ====
section
/-! DEFINITION. The syntax: one constructor of Instr per row of spec/opcode_table.json (8 frame classes, 5 operations
of the command port), the operations as the command port takes them, and the typed results of the codec. -/

namespace Sys2Proof

/-- The instruction set: the block frames and the operations of the command port (00_scope.md section 1). A frame
constructor carries every bit of the frame but the two CRC bytes, which the frame's other bytes determine. -/
inductive Instr where
  /-- I_BLOCK_TX_SEQ0: the transmitted I-block frame with PCB 0x02 (30_encoding.md R45, 40_frame_codec.md R56). -/
  | iBlockTxSeq0 (payload : List Byte)
  /-- I_BLOCK_TX_SEQ1: the transmitted I-block frame with PCB 0x03 (30_encoding.md R45, 40_frame_codec.md R56). -/
  | iBlockTxSeq1 (payload : List Byte)
  /-- S_WTX_ACK_TX: the transmitted S(WTX) acknowledgement, PCB 0xF2 and the multiplier (30_encoding.md R49, 40_frame_codec.md R57). -/
  | sWtxAckTx (m : Byte)
  /-- I_BLOCK_RX: a received I-block; `flags` is pcb[5:1], `seq` is pcb[0] (30_encoding.md R46, R47). -/
  | iBlockRx (flags : BitVec 5) (seq : Bit) (payload : List Byte)
  /-- UNCLASSIFIED_RX: a received frame with pcb[7:6] = 01; `low` is pcb[5:0] (30_encoding.md R44). -/
  | unclassifiedRx (low : BitVec 6) (body : List Byte)
  /-- R_BLOCK_RX: a received frame with pcb[7:6] = 10; `low` is pcb[5:0] (30_encoding.md R50). -/
  | rBlockRx (low : BitVec 6) (body : List Byte)
  /-- S_WTX_RX: a received frame with PCB 0xF2; the multiplier is the first payload byte (30_encoding.md R48, R52). -/
  | sWtxRx (payload : List Byte)
  /-- S_OTHER_RX: a received frame with pcb[7:6] = 11 that is not 0xF2; `low` is pcb[5:0] (30_encoding.md R48). -/
  | sOtherRx (low : BitVec 6) (body : List Byte)
  /-- TRANSCEIVE: `reqLen` bytes of REQ_BUF are the request, `maxResponseLen` the capacity of RESP_BUF (41_session.md R66). -/
  | transceive (reqLen maxResponseLen : Nat)
  /-- RESET_SEQUENCE (41_session.md R87). -/
  | resetSequence
  /-- ENCODE_I (40_frame_codec.md R56). -/
  | encodeI (seq : Bit) (payload : List Byte)
  /-- ENCODE_WTX_ACK (40_frame_codec.md R57). -/
  | encodeWtxAck (m : Byte)
  /-- DECODE (40_frame_codec.md R61). -/
  | decode (raw : List Byte)
deriving DecidableEq, Repr

/-- An operation of the command port with its operands (42_interfaces.md R89). Operations have no binary encoding (D17). -/
inductive Command where
  | transceive (reqLen maxResponseLen : Nat)
  | resetSequence
  | encodeI (seq : Bit) (payload : List Byte)
  | encodeWtxAck (m : Byte)
  | decode (raw : List Byte)
deriving DecidableEq, Repr

/-- The instruction an operation of the command port is (42_interfaces.md R89). -/
def Command.toInstr : Command → Instr
  | .transceive n m => .transceive n m
  | .resetSequence => .resetSequence
  | .encodeI s p => .encodeI s p
  | .encodeWtxAck m => .encodeWtxAck m
  | .decode r => .decode r

/-- The codec's own errors (60_exceptions.md R99). -/
inductive FrameError where
  /-- Fewer than 3 bytes (40_frame_codec.md R58). -/
  | tooShort
  /-- The trailing two bytes are not the CRC of the others (40_frame_codec.md R59). -/
  | crcMismatch
deriving DecidableEq, Repr

/-- The class DECODE gives a valid frame (40_frame_codec.md R60). -/
inductive FrameClass where
  | iBlock (sequenceBit : Bit) (payload : List Byte)
  | rBlock
  | sBlock (isWtx : Bool) (payload : List Byte)
  | unclassified
deriving DecidableEq, Repr

/-- Why the transmit-side decoder refuses the bytes of TX_BUF (30_encoding.md R54: the block forms 0x02, 0x03 and 0xF2 only). -/
inductive TxError where
  /-- The frame does not pass the length or CRC check (30_encoding.md R42). -/
  | frame (e : FrameError)
  /-- The PCB is none of the three the block transmits. -/
  | pcbNotTransmitted (pcb : Byte)
  /-- PCB 0xF2 with a payload that is not exactly one byte (40_frame_codec.md R57). -/
  | ackPayload (length : Nat)
deriving DecidableEq, Repr

/-- On which side of the link a frame stands: TX_BUF or RX_BUF. The PCB alone does not tell 0x02, 0x03 and 0xF2 apart (30_encoding.md section 4). -/
inductive Direction where
  | tx
  | rx
deriving DecidableEq, Repr

/-- The side a frame constructor belongs to; none for an operation of the command port. -/
def Instr.direction : Instr → Option Direction
  | .iBlockTxSeq0 _ => some .tx
  | .iBlockTxSeq1 _ => some .tx
  | .sWtxAckTx _ => some .tx
  | .iBlockRx _ _ _ => some .rx
  | .unclassifiedRx _ _ => some .rx
  | .rBlockRx _ _ => some .rx
  | .sWtxRx _ => some .rx
  | .sOtherRx _ _ => some .rx
  | .transceive _ _ => none
  | .resetSequence => none
  | .encodeI _ _ => none
  | .encodeWtxAck _ => none
  | .decode _ => none

end Sys2Proof
end

