-- ==== Sys2Proof/WellFormed.lean ====
section
/-! DEFINITION. Static checks on an instruction against the build-time parameters: a frame fits its buffer, an S_OTHER_RX
frame is not an S(WTX), and a request keeps to MAX_FRAME_PAYLOAD. Instructions that fail a check still have a meaning
where the spec gives one (a usage fault). -/

namespace Sys2Proof

/-- A payload that fits a frame buffer beside the PCB and the CRC (00_scope.md R2, 30_encoding.md R42). -/
def payloadFits (p : Params) (payload : List Byte) : Bool := decide (payload.length ≤ p.maxFramePayload)

/-- The six low PCB bits of an S(WTX) block: pcb & 0x3F == 0x32 (30_encoding.md R48). -/
def wtxLow : BitVec 6 := 0x32

/-- The static well-formedness of an instruction. -/
def Instr.wellFormed (p : Params) : Instr → Bool
  | .iBlockTxSeq0 payload => payloadFits p payload
  | .iBlockTxSeq1 payload => payloadFits p payload
  | .sWtxAckTx _ => true
  | .iBlockRx _ _ payload => payloadFits p payload
  | .unclassifiedRx _ body => payloadFits p body
  | .rBlockRx _ body => payloadFits p body
  | .sWtxRx payload => payloadFits p payload
  | .sOtherRx low body => payloadFits p body && low != wtxLow
  | .transceive reqLen _ => decide (reqLen ≤ p.maxFramePayload)
  | .resetSequence => true
  | .encodeI _ payload => payloadFits p payload
  | .encodeWtxAck _ => true
  | .decode _ => true

end Sys2Proof
end

