-- ==== Sys2Proof/Decode.lean ====
section
/-! DEFINITION. The frame codec of 40_frame_codec.md as pure functions (CRC_A, ENCODE_I, ENCODE_WTX_ACK, DECODE), the
decoder from frame bytes to Instr on either side of the link, the encoder from Instr to frame bytes, and the words of
spec/opcode_table.json read through them. Every function of the codec takes the CRC primitive as an argument
(00_scope.md R6). -/

namespace Sys2Proof

/-! ### The CRC primitive -/

/-- One bit of the CRC_A register: shift right, and XOR 0x8408 if the bit shifted out was 1 (40_frame_codec.md R62). -/
def crcAShift (crc : BitVec 16) : BitVec 16 :=
  if crc.getLsbD 0 then (crc >>> 1) ^^^ 0x8408#16 else crc >>> 1

/-- One byte into the CRC_A register: XOR it into the low byte, then eight shifts (40_frame_codec.md R62). -/
def crcAByte (crc : BitVec 16) (b : Byte) : BitVec 16 :=
  crcAShift (crcAShift (crcAShift (crcAShift (crcAShift (crcAShift (crcAShift (crcAShift
    (crc ^^^ b.setWidth 16))))))))

/-- The CRC_A register after the bytes, from a start value (40_frame_codec.md R62). -/
def crcARegister (crc : BitVec 16) : List Byte → BitVec 16
  | [] => crc
  | b :: bs => crcARegister (crcAByte crc b) bs

/-- The default CRC primitive: CRC_A with initial value 0x6363, no final XOR, low byte first (40_frame_codec.md R62).
PRESUMED: the spec marks the definition as general knowledge (93_implementation_defined.md G1, log entry 2). -/
def crcA (xs : List Byte) : CrcPair :=
  let c := crcARegister 0x6363#16 xs
  (c.setWidth 8, (c >>> 8).setWidth 8)

/-- The function wired to the CRC port (00_scope.md R6, 42_interfaces.md R95). -/
def crc16a : CrcPrimitive → CrcFun
  | .crcA => crcA
  | .external => Config.crcExternal

/-! ### Building frames -/

/-- MIN_FRAME_LEN, the shortest valid frame in bytes (00_scope.md R5). -/
def minFrameLen : Nat := 3

/-- The PCB of a transmitted I-block, 0x02 | seq (30_encoding.md R45). -/
def iBlockPcb (seq : Bit) : Byte := 0x02#8 ||| seq.setWidth 8

/-- The PCB of an S(WTX) block, request and acknowledgement alike (30_encoding.md R48, R49). -/
def wtxPcb : Byte := 0xF2

/-- append_crc16a: the bytes, then their two CRC bytes in frame order (42_interfaces.md R95, 20_memory.md R31). -/
def appendCrc (crc : CrcFun) (body : List Byte) : List Byte :=
  body ++ [(crc body).1, (crc body).2]

/-- A frame: PCB, payload, CRC (30_encoding.md R42). -/
def buildFrame (crc : CrcFun) (pcb : Byte) (payload : List Byte) : List Byte :=
  appendCrc crc (pcb :: payload)

/-- The frame ENCODE_I returns when its precondition holds (40_frame_codec.md R56). -/
def encodeIFrame (crc : CrcFun) (seq : Bit) (payload : List Byte) : List Byte :=
  buildFrame crc (iBlockPcb seq) payload

/-- The frame ENCODE_WTX_ACK returns (40_frame_codec.md R57). -/
def encodeWtxAckFrame (crc : CrcFun) (m : Byte) : List Byte :=
  buildFrame crc wtxPcb [m]

/-! ### DECODE -/

/-- pcb[7:6], the block type (30_encoding.md R44). -/
def pcbType (pcb : Byte) : BitVec 2 := pcb.extractLsb' 6 2

/-- pcb[5:0], the bits below the block type. -/
def pcbLow (pcb : Byte) : BitVec 6 := pcb.extractLsb' 0 6

/-- pcb[0], the sequence bit of a received I-block (30_encoding.md R46). -/
def pcbSeq (pcb : Byte) : Bit := pcb.extractLsb' 0 1

/-- pcb[5:1] of a received I-block, not examined (30_encoding.md R47). -/
def pcbFlags (pcb : Byte) : BitVec 5 := pcb.extractLsb' 1 5

/-- The S(WTX) selector: pcb & 0x3F == 0x32 (30_encoding.md R48). -/
def isWtxPcb (pcb : Byte) : Bool := (pcb &&& 0x3F#8) == 0x32#8

/-- The bytes the CRC covers, raw[0..n-2) (30_encoding.md R42, R53). -/
def frameBody (raw : List Byte) : List Byte := raw.take (raw.length - 2)

/-- The CRC field, (raw[n-2], raw[n-1]) as a sequence of bytes (30_encoding.md R53). -/
def frameTrailer (raw : List Byte) : List Byte := raw.drop (raw.length - 2)

/-- Steps 1 and 2 of DECODE: the length check, then the CRC check; a valid frame gives its PCB and its payload
raw[1..n-2) (40_frame_codec.md R58, R59; 30_encoding.md R51). -/
def checkFrame (crc : CrcFun) (raw : List Byte) : Except FrameError (Byte × List Byte) :=
  if raw.length < minFrameLen then .error .tooShort
  else
    match frameBody raw with
    | [] => .error .tooShort
    | pcb :: payload =>
      if frameTrailer raw = [(crc (pcb :: payload)).1, (crc (pcb :: payload)).2] then .ok (pcb, payload)
      else .error .crcMismatch

/-- Step 3 of DECODE: the class of a frame by its PCB (40_frame_codec.md R60; the 01 arm is decision D6, log entry 24). -/
def classify (pcb : Byte) (payload : List Byte) : FrameClass :=
  if pcbType pcb = 0b00#2 then .iBlock (pcbSeq pcb) payload
  else if pcbType pcb = 0b10#2 then .rBlock
  else if pcbType pcb = 0b11#2 then .sBlock (isWtxPcb pcb) payload
  else .unclassified

/-- DECODE in full: the first step that gives a result ends it (40_frame_codec.md R61). -/
def decodeFrame (crc : CrcFun) (raw : List Byte) : Except FrameError FrameClass :=
  match checkFrame crc raw with
  | .error e => .error e
  | .ok (pcb, payload) => .ok (classify pcb payload)

/-! ### Frames as instructions -/

/-- The instruction a received frame is, by the PCB map of 30_encoding.md section 4: S_WTX_RX takes priority over S_OTHER_RX. -/
def rxInstr (pcb : Byte) (payload : List Byte) : Instr :=
  if pcbType pcb = 0b00#2 then .iBlockRx (pcbFlags pcb) (pcbSeq pcb) payload
  else if pcbType pcb = 0b01#2 then .unclassifiedRx (pcbLow pcb) payload
  else if pcbType pcb = 0b10#2 then .rBlockRx (pcbLow pcb) payload
  else if isWtxPcb pcb then .sWtxRx payload
  else .sOtherRx (pcbLow pcb) payload

/-- The decoder of the receive side: total on any bytes, refusing with DECODE's own errors (40_frame_codec.md R61). -/
def decodeRx (crc : CrcFun) (raw : List Byte) : Except FrameError Instr :=
  match checkFrame crc raw with
  | .error e => .error e
  | .ok (pcb, payload) => .ok (rxInstr pcb payload)

/-- The decoder of the transmit side: the frames the block itself forms (30_encoding.md R45, R49, R54). -/
def decodeTx (crc : CrcFun) (raw : List Byte) : Except TxError Instr :=
  match checkFrame crc raw with
  | .error e => .error (.frame e)
  | .ok (pcb, payload) =>
    if pcb = iBlockPcb 0 then .ok (.iBlockTxSeq0 payload)
    else if pcb = iBlockPcb 1 then .ok (.iBlockTxSeq1 payload)
    else if pcb = wtxPcb then
      match payload with
      | [m] => .ok (.sWtxAckTx m)
      | _ => .error (.ackPayload payload.length)
    else .error (.pcbNotTransmitted pcb)

/-- The decoder on a given side of the link. -/
def decodeInstr (crc : CrcFun) (d : Direction) (raw : List Byte) : Option Instr :=
  match d with
  | .tx => (decodeTx crc raw).toOption
  | .rx => (decodeRx crc raw).toOption

/-! ### The encoder -/

/-- A PCB from its block type and its six low bits (30_encoding.md R44). -/
def pcbOf (type : BitVec 2) (low : BitVec 6) : Byte := type ++ low

/-- The frame bytes of a frame instruction, written from 30_encoding.md section 4; an operation of the command port has
no binary encoding (92_eei_decisions.md D17). -/
def encode (crc : CrcFun) : Instr → Option (List Byte)
  | .iBlockTxSeq0 payload => some (encodeIFrame crc 0 payload)
  | .iBlockTxSeq1 payload => some (encodeIFrame crc 1 payload)
  | .sWtxAckTx m => some (encodeWtxAckFrame crc m)
  | .iBlockRx flags seq payload => some (buildFrame crc (pcbOf 0b00#2 (flags ++ seq)) payload)
  | .unclassifiedRx low body => some (buildFrame crc (pcbOf 0b01#2 low) body)
  | .rBlockRx low body => some (buildFrame crc (pcbOf 0b10#2 low) body)
  | .sWtxRx payload => some (buildFrame crc wtxPcb payload)
  | .sOtherRx low body => some (buildFrame crc (pcbOf 0b11#2 low) body)
  | .transceive _ _ => none
  | .resetSequence => none
  | .encodeI _ _ => none
  | .encodeWtxAck _ => none
  | .decode _ => none

/-! ### The words of spec/opcode_table.json -/

/-- The bytes of a table word: `n` bytes, the first byte of the frame in bits 7..0, a later byte in the bits above. -/
def wordBytes : Nat → Nat → List Byte
  | 0, _ => []
  | n + 1, w => BitVec.ofNat 8 w :: wordBytes n (w / 256)

/-- The frame a table word stands for: its bytes, one zero multiplier byte if it is an S(WTX) PCB alone, and then the CRC
trailer, which the spec derives from those bytes and which a table row therefore leaves out (log entry 10). -/
def tableFrame (crc : CrcFun) (nbits w : Nat) : List Byte :=
  match wordBytes (nbits / 8) w with
  | [] => []
  | [pcb] => if pcb = wtxPcb then appendCrc crc [pcb, 0] else appendCrc crc [pcb]
  | body => appendCrc crc body

/-- The instruction a frame is when nothing says on which side it stands: the transmit side first (log entry 9). -/
def decodeEither (crc : CrcFun) (raw : List Byte) : Option Instr :=
  match decodeTx crc raw with
  | .ok i => some i
  | .error _ => (decodeRx crc raw).toOption

/-- The instruction of a table word, with the default CRC (log entries 9 and 10). -/
def decodeTableWord (nbits w : Nat) : Option Instr :=
  decodeEither crcA (tableFrame crcA nbits w)

end Sys2Proof
end

