-- ==== Sys2Proof/Machine/State.lean ====
section
/-! DEFINITION. The state of the machine: every register of 10_state.md, the four buffers of 20_memory.md, the build-time
parameters, and the outside world (the caller's coming moves, the link's coming answers, what the result and the link
port have shown) as plain data; the reasons a step can stop; the state after power-on reset (70_reset_and_hazards.md R109). -/

namespace Sys2Proof.Machine

/-- PHASE, the sequencing register (10_state.md R18). -/
inductive Phase where
  | idle
  | sending
  | awaitingResponse
  | wtxRetry
  | delivered
  | failed
deriving DecidableEq, Repr, Inhabited

/-- The six typed failures of an exchange attempt (60_exceptions.md R98). -/
inductive TransceiveError where
  | linkError
  | frameTooShort
  | crcMismatch
  | responseTooLarge
  | wtxExceeded
  | unsupportedBlock
deriving DecidableEq, Repr

/-- The terminal outcome of an attempt, the content of OUTCOME when it is not None (10_state.md R23). -/
inductive Terminal where
  /-- Delivered(n): the response payload is RESP_BUF[0..n). -/
  | delivered (n : Nat)
  /-- Failed(e). -/
  | failed (e : TransceiveError)
deriving DecidableEq, Repr

/-- The five usage faults (60_exceptions.md R101). -/
inductive UsageFault where
  | requestTooLarge
  | reentry
  | resetWhileBusy
  | linkContract
  | outOfBounds
deriving DecidableEq, Repr

/-- What the result port presents (42_interfaces.md R90); RESET_SEQUENCE returns nothing. -/
inductive Result where
  /-- OUTCOME, as TRANSCEIVE reports it when the attempt returns to IDLE (41_session.md R79). -/
  | outcome (o : Option Terminal)
  /-- The frame of ENCODE_I or ENCODE_WTX_ACK. -/
  | frame (bytes : List Byte)
  /-- DECODE's Ok(class). -/
  | decoded (c : FrameClass)
  /-- DECODE's Err(e). -/
  | decodeError (e : FrameError)
deriving DecidableEq, Repr

/-- The arguments of one call of the physical link; rx_buffer is always RX_BUF (42_interfaces.md R91). -/
structure LinkCall where
  /-- tx_bytes -/
  txBytes : List Byte
  /-- tx_bit_len -/
  txBitLen : Nat
  /-- rx_buffer_capacity_bits -/
  rxCapBits : Nat
deriving DecidableEq, Repr

/-- One answer of the physical link (42_interfaces.md R92). -/
structure LinkAnswer where
  /-- status -/
  status : LinkStatus
  /-- rx_bit_len_out -/
  bits : Nat
  /-- The bytes the link writes to RX_BUF from index 0. -/
  bytes : List Byte
deriving DecidableEq, Repr

/-- One move of the caller (42_interfaces.md R97, log entry 15). A caller that keeps its duties waits for IDLE with every
move; `issueNow` outside IDLE is a concurrent call, which breaks R114 or R115 of 70_reset_and_hazards.md. -/
inductive HostMove where
  /-- Issue an operation on the command port once the block is in IDLE. -/
  | issue (c : Command)
  /-- Issue an operation at once, whatever the phase: outside IDLE a concurrent call, a usage fault (log entry 25). -/
  | issueNow (c : Command)
  /-- Lay the bytes out in REQ_BUF from index 0, between two operations. -/
  | writeReq (bytes : List Byte)
  /-- Lay the bytes out in RESP_BUF from index 0, between two operations. -/
  | writeResp (bytes : List Byte)
deriving DecidableEq, Repr

/-- The contents of a buffer: (index, byte) cells with indices strictly rising and no cell equal to what an unlisted index
reads as (`unwritten` in Machine/Ops.lean, log entry 6). -/
abbrev Memory := List Host.Cell

/-- The state of the machine. -/
structure State where
  /-- FRAME_BUF_CAP and the CRC primitive, fixed when the block is built (10_state.md R13). -/
  params : Params
  /-- SEQ (10_state.md R14). -/
  seq : Bit
  /-- PHASE (10_state.md R18). -/
  phase : Phase
  /-- WTX_CNT (10_state.md R19). -/
  wtxCnt : Nat
  /-- TX_BUF (10_state.md R20). -/
  txBuf : Memory
  /-- TX_LEN (10_state.md R20). -/
  txLen : Nat
  /-- RX_BUF (10_state.md R21). -/
  rxBuf : Memory
  /-- RX_BITS (10_state.md R21). -/
  rxBits : Nat
  /-- RX_STATUS (10_state.md R21). -/
  rxStatus : LinkStatus
  /-- MAX_RESP (10_state.md R22). -/
  maxResp : Nat
  /-- OUTCOME (10_state.md R23). -/
  outcome : Option Terminal
  /-- FAULT, a set of usage faults kept as a list without repeats (10_state.md R25). -/
  fault : List UsageFault
  /-- REQ_BUF, the caller's request buffer (20_memory.md R26). -/
  reqBuf : Memory
  /-- RESP_BUF, the caller's response buffer (20_memory.md R26). -/
  respBuf : Memory
  /-- The caller's coming moves, the next one first (the model's own field, log entry 15). -/
  host : List HostMove
  /-- What the result port has presented, oldest first (the model's own field, log entry 17). -/
  results : List Result
  /-- The link calls made, oldest first (the model's own field, log entry 18). -/
  linkCalls : List LinkCall
  /-- The link's coming answers, the next one first (the model's own field, log entry 4). -/
  linkAnswers : List LinkAnswer
  /-- How many free draws there have been, of a link answer or of the attempt registers' values in IDLE; it indexes the free
  values (the model's own field, log entries 4 and 7). -/
  draws : Nat
deriving DecidableEq, Repr

/-- Why the machine stops. -/
inductive Fault where
  /-- Raised by every meaning and by step in a state whose FAULT is not empty: a faulted block takes no further step
  (60_exceptions.md R102, log entry 13). SAFE: the machine stops where the hardware's behaviour is not defined. -/
  | halted
deriving DecidableEq, Repr

/-- Why an instruction has no effect in a state. -/
inductive Refusal where
  /-- Raised by exec for an instruction that has no meaning yet; none is left. SAFE. -/
  | notModelled (mnemonic : String)
  /-- Raised by the meaning of a frame instruction in a phase from which 41_session.md R85 has no transition for it; step
  never raises it. SAFE: the spec gives no effect there (log entry 12). -/
  | noTransition (phase : Phase)
deriving DecidableEq, Repr

/-- The state after power-on reset, for any parameters (70_reset_and_hazards.md R109). The attempt registers are
unspecified there (10_state.md R24): the zeros are a DESIGN CHOICE (log entry 5); so are the empty buffers (log entry 6)
and the outside world in which nothing has happened yet (log entries 4, 15, 17, 18). -/
def State.powerOn (p : Params) : State :=
  { params := p
    seq := 0
    phase := .idle
    wtxCnt := 0
    txBuf := []
    txLen := 0
    rxBuf := []
    rxBits := 0
    rxStatus := .success
    maxResp := 0
    outcome := none
    fault := []
    reqBuf := []
    respBuf := []
    host := []
    results := []
    linkCalls := []
    linkAnswers := []
    draws := 0 }

/-- The machine right after reset, with the parameters of log entries 1 and 2. -/
def State.reset : State := State.powerOn Params.default

end Sys2Proof.Machine
end

