-- ==== Sys2Proof/Machine/Operands.lean ====
section
/-! DEFINITION. The operand forms and small arithmetic of the session: limits, bit and byte counts, payloads and the WTX
multiplier. -/

namespace Sys2Proof.Machine

/-- WTX_CAP, the largest number of WTX round-trips of one attempt (00_scope.md R4). -/
def wtxCap : Nat := 10

/-- MIN_RX_BITS, 24 bits (00_scope.md R5). -/
def minRxBits : Nat := 24

/-- n = RX_BITS div 8: whole bytes count, a trailing partial byte is dropped (41_session.md R72; decision D5, log entry 24). -/
def byteCount (bits : Nat) : Nat := bits / 8

/-- ceil(bits / 8), the bytes the link writes for a bit count (42_interfaces.md R92 (d)). -/
def byteCountUp (bits : Nat) : Nat := (bits + 7) / 8

/-- tx_bit_len of a frame: whole bytes (42_interfaces.md R91; decision D14). -/
def bitLength (frame : List Byte) : Nat := 8 * frame.length

/-- TX_LEN of the I-block for a request of `reqLen` bytes (41_session.md R68). -/
def txLenOf (reqLen : Nat) : Nat := reqLen + 3

/-- TX_LEN of an S(WTX) acknowledgement (40_frame_codec.md R57, 41_session.md R76). -/
def ackLen : Nat := 4

/-- The WTX multiplier, payload[0]; none for an empty payload, and later bytes are ignored (30_encoding.md R52; decision D7). -/
def wtxMultiplier (payload : List Byte) : Option Byte := payload.head?

end Sys2Proof.Machine
end

