-- ==== Sys2Proof/Machine/Flags.lean ====
section
/-! DEFINITION. The block has no status flags (10_state.md R12). This file holds what stands in their place: the toggle of
the sequence bit and the tests a step decides by (60_exceptions.md R103). -/

namespace Sys2Proof.Machine

/-- SEQ ^ 1 (41_session.md R75). -/
def toggle (seq : Bit) : Bit := seq ^^^ 1#1

/-- Check (a), first part: the link reports success; the error code is not looked at (41_session.md R70). -/
def linkOk : LinkStatus → Bool
  | .success => true
  | .error _ => false

/-- Check (a), second part: fewer than 24 bits were received (41_session.md R71). -/
def rxTooShort (bits : Nat) : Bool := decide (bits < minRxBits)

/-- The payload is longer than MAX_RESP (41_session.md R75). -/
def responseTooLarge (plen maxResp : Nat) : Bool := decide (maxResp < plen)

/-- WTX_CNT == WTX_CAP (41_session.md R76, R81). -/
def wtxSpent (wtxCnt : Nat) : Bool := wtxCnt == wtxCap

/-- The request is longer than MAX_FRAME_PAYLOAD (41_session.md R67, 40_frame_codec.md R56). -/
def requestTooLarge (p : Params) (len : Nat) : Bool := decide (p.maxFramePayload < len)

end Sys2Proof.Machine
end

