-- ==== Sys2Proof/Machine/Ops.lean ====
section
/-! DEFINITION. The named operations over buffers and registers that the meanings share: reading and writing a buffer
(20_memory.md R29), recording a usage fault, raising a failure and leaving it (60_exceptions.md R104, 41_session.md R79),
the result port, one exchange on the link port (42_interfaces.md R91), and the two guards every meaning begins with. -/

namespace Sys2Proof.Machine

/-! ### Buffers -/

/-- What a buffer byte that nothing has written reads as (DESIGN CHOICE, log entry 6, unsafe for a statement that rests on it). -/
def unwritten : Byte := 0

/-- One byte of a buffer. -/
def readByte : Memory → Nat → Byte
  | [], _ => unwritten
  | (k, b) :: rest, a => if k = a then b else readByte rest a

/-- Write one byte of a buffer, keeping its canonical form. -/
def writeByte : Memory → Nat → Byte → Memory
  | [], a, b => if b = unwritten then [] else [(a, b)]
  | (k, c) :: rest, a, b =>
    if a < k then (if b = unwritten then (k, c) :: rest else (a, b) :: (k, c) :: rest)
    else if a = k then (if b = unwritten then rest else (a, b) :: rest)
    else (k, c) :: writeByte rest a b

/-- The `n` bytes from index `a` on. -/
def readBytes (m : Memory) (a : Nat) : Nat → List Byte
  | 0 => []
  | n + 1 => readByte m a :: readBytes m (a + 1) n

/-- Write a byte sequence from index `a` on. -/
def writeBytes (m : Memory) (a : Nat) : List Byte → Memory
  | [] => m
  | b :: bs => writeBytes (writeByte m a b) (a + 1) bs

/-- MemRead on a buffer of `cap` bytes: none if the access would fall outside it (20_memory.md R29). -/
def memRead (cap : Nat) (m : Memory) (a n : Nat) : Option (List Byte) :=
  if a + n ≤ cap then some (readBytes m a n) else none

/-- MemWrite on a buffer of `cap` bytes: none if the access would fall outside it; never wrapped or clipped (20_memory.md R29). -/
def memWrite (cap : Nat) (m : Memory) (a : Nat) (bs : List Byte) : Option Memory :=
  if a + bs.length ≤ cap then some (writeBytes m a bs) else none

/-- The canonical form from index `lo` on: indices strictly rising, no cell that holds what an unlisted index reads as. -/
def memWfFrom (lo : Nat) : Memory → Bool
  | [] => true
  | (k, b) :: rest => decide (lo ≤ k) && b != unwritten && memWfFrom (k + 1) rest

/-- A buffer's contents are in canonical form. -/
def Memory.wf (m : Memory) : Bool := memWfFrom 0 m

/-! ### Guards -/

/-- The CRC function wired to this block (42_interfaces.md R95). -/
def crcOf (s : State) : CrcFun := crc16a s.params.crc

/-- A block whose FAULT is not empty takes no step; any other goes on (60_exceptions.md R102, log entry 13). -/
def live (s : State) (go : State → State) : Host.Outcome State Fault Refusal :=
  if s.fault = [] then .next (go s) else .fault .halted

/-- A frame instruction runs in one phase only; from another phase 41_session.md R85 has no transition for it (log entry 12). -/
def inPhase (p : Phase) (s : State) (go : State → State) : Host.Outcome State Fault Refusal :=
  if s.fault = [] then (if s.phase = p then .next (go s) else .refused (.noTransition s.phase))
  else .fault .halted

/-! ### Usage faults, failures and the way back -/

/-- Add a usage fault to the set (10_state.md R25). -/
def insertFault (u : UsageFault) (fs : List UsageFault) : List UsageFault :=
  if u ∈ fs then fs else fs ++ [u]

/-- raise Fault(u): record the usage fault and do nothing else (60_exceptions.md R101). -/
def raiseFault (u : UsageFault) (s : State) : State :=
  { s with fault := insertFault u s.fault }

/-- raise Fail(e), TAKING A FAILURE: OUTCOME <- Failed(e) and PHASE <- FAILED, nothing else (41_session.md R79, 60_exceptions.md R104). -/
def raiseFail (e : TransceiveError) (s : State) : State :=
  { s with outcome := some (.failed e), phase := .failed }

/-- A buffer of `cap` free bytes. -/
def freeBuffer (cap : Nat) (byte : Nat → Byte) : Memory := writeBytes [] 0 ((List.range cap).map byte)

/-- The attempt is over: its registers hold any value of their ranges from now on, a free draw (10_state.md R24, section 1; log entry 7). -/
def releaseAttempt (s : State) : State :=
  { s with
    wtxCnt := Config.idleWtxCnt s.draws % (wtxCap + 1)
    txBuf := freeBuffer s.params.frameBufCap (Config.idleTxByte s.draws)
    txLen := Config.idleTxLen s.draws % (s.params.frameBufCap + 1)
    rxBuf := freeBuffer s.params.frameBufCap (Config.idleRxByte s.draws)
    rxBits := Config.idleRxBits s.draws % (s.params.rxCapBits + 1)
    rxStatus := Config.idleRxStatus s.draws
    maxResp := Config.idleMaxResp s.draws
    draws := s.draws + 1 }

/-- THE WAY BACK from a terminal phase: present OUTCOME on the result port and go to IDLE (41_session.md R79), where the attempt
registers are unspecified (10_state.md R24). -/
def report (s : State) : State :=
  { releaseAttempt s with results := s.results ++ [.outcome s.outcome], phase := .idle }

/-- Present a result on the result port (42_interfaces.md R90). -/
def present (r : Result) (s : State) : State :=
  { s with results := s.results ++ [r] }

/-! ### The attempt -/

/-- The writes of rule R68 after ENCODE_I: the frame is in TX_BUF, the attempt registers are set, phase SENDING. -/
def startAttempt (tx : Memory) (reqLen maxLen : Nat) (s : State) : State :=
  { s with txBuf := tx, txLen := txLenOf reqLen, maxResp := maxLen, wtxCnt := 0, outcome := none, phase := .sending }

/-- The writes of rule R75 on delivery: RESP_BUF, SEQ toggled, OUTCOME <- Delivered(n), phase DELIVERED. -/
def deliver (resp : Memory) (n : Nat) (s : State) : State :=
  { s with respBuf := resp, seq := toggle s.seq, outcome := some (.delivered n), phase := .delivered }

/-- The writes of rule R76: the acknowledgement is in TX_BUF, one more round-trip, phase WTX_RETRY. -/
def queueAck (tx : Memory) (s : State) : State :=
  { s with txBuf := tx, txLen := ackLen, wtxCnt := s.wtxCnt + 1, phase := .wtxRetry }

/-! ### The link port -/

/-- The n-th free draw of the link for a capacity in bits: any status, any bit count from 0 to the capacity, any bytes, as
many as the bit count fills (42_interfaces.md R92, R93; log entry 4). -/
def drawnAnswer (capBits n : Nat) : LinkAnswer :=
  { status := Config.linkStatus n
    bits := Config.linkBits n % (capBits + 1)
    bytes := (List.range (byteCountUp (Config.linkBits n % (capBits + 1)))).map (Config.linkByte n) }

/-- The link's answer to the next exchange: the next one of `linkAnswers`, or a free draw (log entry 4). -/
def linkAnswer (s : State) : LinkAnswer :=
  match s.linkAnswers with
  | [] => drawnAnswer s.params.rxCapBits s.draws
  | a :: _ => a

/-- The link call is made and its answer taken: the call is recorded, the answer consumed (42_interfaces.md R91; log entries 4, 18). -/
def callLink (frame : List Byte) (s : State) : State :=
  { s with
    linkCalls := s.linkCalls ++ [{ txBytes := frame, txBitLen := bitLength frame, rxCapBits := s.params.rxCapBits }]
    linkAnswers := s.linkAnswers.tail
    draws := if s.linkAnswers = [] then s.draws + 1 else s.draws }

/-- The writes of rules R69 and R78 after the exchange: RX_STATUS, RX_BITS and RX_BUF latched, phase AWAITING_RESPONSE. -/
def latchAnswer (a : LinkAnswer) (rx : Memory) (s : State) : State :=
  { s with rxStatus := a.status, rxBits := a.bits, rxBuf := rx, phase := .awaitingResponse }

/-- One exchange on the link port (41_session.md R69, R78; 42_interfaces.md R91, R92). An answer of more than RX_CAP_BITS
bits is the usage fault LinkContract, one with more bytes than RX_BUF holds OutOfBounds; neither is latched (log entry 19). -/
def exchange (frame : List Byte) (s : State) : State :=
  if s.params.rxCapBits < (linkAnswer s).bits then raiseFault .linkContract (callLink frame s)
  else
    match memWrite s.params.frameBufCap s.rxBuf 0 (linkAnswer s).bytes with
    | none => raiseFault .outOfBounds (callLink frame s)
    | some rx => latchAnswer (linkAnswer s) rx (callLink frame s)

/-- Transmit a frame that stands in TX_BUF; one that TX_BUF cannot hold is an access outside it (20_memory.md R29). -/
def transmit (frame : List Byte) (s : State) : State :=
  if frame.length ≤ s.params.frameBufCap then exchange frame s else raiseFault .outOfBounds s

end Sys2Proof.Machine
end

