-- ==== Sys2Proof/Machine/Codec.lean ====
section
/-! DEFINITION. The meanings of the three codec operations of the command port: pure functions of their operands whose result
goes to the result port (40_frame_codec.md R55, 42_interfaces.md R90). They read no register, PHASE included; that the command port
takes none of them outside IDLE is Machine/Fetch.lean's concurrentCall (log entry 25). -/

namespace Sys2Proof.Machine

/-- What DECODE presents on the result port (42_interfaces.md R90). -/
def decodeResult : Except FrameError FrameClass → Result
  | .ok c => .decoded c
  | .error e => .decodeError e

/-- ENCODE_I: the frame, or the usage fault RequestTooLarge and no frame (40_frame_codec.md R56). -/
def execEncodeI (seq : Bit) (payload : List Byte) (s : State) : Host.Outcome State Fault Refusal :=
  live s fun s =>
    if requestTooLarge s.params payload.length then raiseFault .requestTooLarge s
    else present (.frame (encodeIFrame (crcOf s) seq payload)) s

/-- ENCODE_WTX_ACK: the 4-byte frame, for every multiplier (40_frame_codec.md R57). -/
def execEncodeWtxAck (m : Byte) (s : State) : Host.Outcome State Fault Refusal :=
  live s (present (.frame (encodeWtxAckFrame (crcOf s) m)))

/-- DECODE: the class, or the first error (40_frame_codec.md R61). -/
def execDecode (raw : List Byte) (s : State) : Host.Outcome State Fault Refusal :=
  live s (present (decodeResult (decodeFrame (crcOf s) raw)))

end Sys2Proof.Machine
end

