-- ==== Sys2Proof/Machine/Receive.lean ====
section
/-! DEFINITION. The meanings of the frames the block receives: what the step of phase AWAITING_RESPONSE does with a frame that
has passed the status, length and CRC checks (41_session.md R74). -/

namespace Sys2Proof.Machine

/-- Rule R75: the size check first, then the copy to RESP_BUF, the toggle of SEQ and the delivery (41_session.md R75, 90_conflicts.md C1). -/
def acceptResponse (payload : List Byte) (s : State) : State :=
  if responseTooLarge payload.length s.maxResp then raiseFail .responseTooLarge s
  else
    match memWrite s.maxResp s.respBuf 0 payload with
    | none => raiseFault .outOfBounds s
    | some resp => deliver resp payload.length s

/-- Rule R76: no multiplier, then the cap, then the acknowledgement (41_session.md R76, R81). -/
def answerWtx (payload : List Byte) (s : State) : State :=
  match wtxMultiplier payload with
  | none => raiseFail .unsupportedBlock s
  | some m =>
    if wtxSpent s.wtxCnt then raiseFail .wtxExceeded s
    else
      match memWrite s.params.frameBufCap s.txBuf 0 (encodeWtxAckFrame (crcOf s) m) with
      | none => raiseFault .outOfBounds s
      | some tx => queueAck tx s

/-- I_BLOCK_RX: the final response (41_session.md R75). pcb[5:1] and the received sequence bit are not examined
(30_encoding.md R47; decision D9, log entry 24). -/
def execIBlockRx (_flags : BitVec 5) (_seq : Bit) (payload : List Byte) (s : State) :
    Host.Outcome State Fault Refusal :=
  inPhase .awaitingResponse s (acceptResponse payload)

/-- UNCLASSIFIED_RX: UnsupportedBlock (41_session.md R77; decision D6, log entry 24). -/
def execUnclassifiedRx (_low : BitVec 6) (_body : List Byte) (s : State) : Host.Outcome State Fault Refusal :=
  inPhase .awaitingResponse s (raiseFail .unsupportedBlock)

/-- R_BLOCK_RX: UnsupportedBlock, with no R-block protocol action (41_session.md R77, 30_encoding.md R50). -/
def execRBlockRx (_low : BitVec 6) (_body : List Byte) (s : State) : Host.Outcome State Fault Refusal :=
  inPhase .awaitingResponse s (raiseFail .unsupportedBlock)

/-- S_WTX_RX: acknowledge, or fail with WtxExceeded or UnsupportedBlock (41_session.md R76, R81). -/
def execSWtxRx (payload : List Byte) (s : State) : Host.Outcome State Fault Refusal :=
  inPhase .awaitingResponse s (answerWtx payload)

/-- S_OTHER_RX: UnsupportedBlock (41_session.md R77). -/
def execSOtherRx (_low : BitVec 6) (_body : List Byte) (s : State) : Host.Outcome State Fault Refusal :=
  inPhase .awaitingResponse s (raiseFail .unsupportedBlock)

end Sys2Proof.Machine
end

