-- ==== Sys2Proof/Machine/Session.lean ====
section
/-! DEFINITION. The meanings of the two session operations of the command port (41_session.md). -/

namespace Sys2Proof.Machine

/-- The I-block frame an attempt sends: ENCODE_I of the current SEQ and the request in REQ_BUF (41_session.md R68). -/
def requestFrame (reqLen : Nat) (s : State) : List Byte :=
  encodeIFrame (crcOf s) s.seq (readBytes s.reqBuf 0 reqLen)

/-- Rule R68: the frame into TX_BUF, the attempt registers set, phase SENDING. -/
def beginAttempt (reqLen maxLen : Nat) (s : State) : State :=
  match memWrite s.params.frameBufCap s.txBuf 0 (requestFrame reqLen s) with
  | none => raiseFault .outOfBounds s
  | some tx => startAttempt tx reqLen maxLen s

/-- The first precondition of rule R67: PHASE == IDLE, otherwise Reentry is recorded. -/
def noteReentry (s : State) : State :=
  if s.phase = .idle then s else raiseFault .reentry s

/-- The second precondition of rule R67: req_len <= MAX_FRAME_PAYLOAD, otherwise RequestTooLarge is recorded. -/
def noteRequestSize (reqLen : Nat) (s : State) : State :=
  if requestTooLarge s.params reqLen then raiseFault .requestTooLarge s else s

/-- TRANSCEIVE: with both preconditions met the attempt starts; each broken one is recorded and nothing else changes
(41_session.md R67, R68; log entry 14). -/
def execTransceive (reqLen maxResponseLen : Nat) (s : State) : Host.Outcome State Fault Refusal :=
  live s fun s =>
    if s.phase = .idle ∧ requestTooLarge s.params reqLen = false then beginAttempt reqLen maxResponseLen s
    else noteRequestSize reqLen (noteReentry s)

/-- RESET_SEQUENCE: SEQ <- 0 in IDLE, otherwise the usage fault ResetWhileBusy (41_session.md R87). -/
def execResetSequence (s : State) : Host.Outcome State Fault Refusal :=
  live s fun s => if s.phase = .idle then { s with seq := 0 } else raiseFault .resetWhileBusy s

end Sys2Proof.Machine
end

