-- ==== Sys2Proof/Machine/Transmit.lean ====
section
/-! DEFINITION. The meanings of the frames the block transmits: one link exchange with the frame the operands encode. -/

namespace Sys2Proof.Machine

/-- I_BLOCK_TX_SEQ0: in SENDING, transmit the I-block with PCB 0x02 and receive the answer (41_session.md R69; 40_frame_codec.md R56). -/
def execIBlockTxSeq0 (payload : List Byte) (s : State) : Host.Outcome State Fault Refusal :=
  inPhase .sending s (transmit (encodeIFrame (crcOf s) 0 payload))

/-- I_BLOCK_TX_SEQ1: in SENDING, transmit the I-block with PCB 0x03 and receive the answer (41_session.md R69; 40_frame_codec.md R56). -/
def execIBlockTxSeq1 (payload : List Byte) (s : State) : Host.Outcome State Fault Refusal :=
  inPhase .sending s (transmit (encodeIFrame (crcOf s) 1 payload))

/-- S_WTX_ACK_TX: in WTX_RETRY, transmit the acknowledgement and receive the next frame (41_session.md R78; 40_frame_codec.md R57). -/
def execSWtxAckTx (m : Byte) (s : State) : Host.Outcome State Fault Refusal :=
  inPhase .wtxRetry s (transmit (encodeWtxAckFrame (crcOf s) m))

end Sys2Proof.Machine
end

