-- ==== Sys2Proof/Machine/Dispatch.lean ====
section
/-! DEFINITION. exec: one arm per constructor of Instr, each one direct call of the instruction's meaning. -/

namespace Sys2Proof.Machine

def exec (i : Instr) (s : State) : Host.Outcome State Fault Refusal :=
  match i with
  -- frames the block transmits (Machine/Transmit.lean)
  | .iBlockTxSeq0 payload => Sys2Proof.Machine.execIBlockTxSeq0 payload s
  | .iBlockTxSeq1 payload => Sys2Proof.Machine.execIBlockTxSeq1 payload s
  | .sWtxAckTx m => Sys2Proof.Machine.execSWtxAckTx m s
  -- frames the block receives (Machine/Receive.lean)
  | .iBlockRx flags seq payload => Sys2Proof.Machine.execIBlockRx flags seq payload s
  | .unclassifiedRx low body => Sys2Proof.Machine.execUnclassifiedRx low body s
  | .rBlockRx low body => Sys2Proof.Machine.execRBlockRx low body s
  | .sWtxRx payload => Sys2Proof.Machine.execSWtxRx payload s
  | .sOtherRx low body => Sys2Proof.Machine.execSOtherRx low body s
  -- session operations (Machine/Session.lean)
  | .transceive reqLen maxResponseLen => Sys2Proof.Machine.execTransceive reqLen maxResponseLen s
  | .resetSequence => Sys2Proof.Machine.execResetSequence s
  -- codec operations (Machine/Codec.lean)
  | .encodeI seq payload => Sys2Proof.Machine.execEncodeI seq payload s
  | .encodeWtxAck m => Sys2Proof.Machine.execEncodeWtxAck m s
  | .decode raw => Sys2Proof.Machine.execDecode raw s

end Sys2Proof.Machine
end

