-- ==== Sys2Proof/Machine/Fetch.lean ====
section
/-! DEFINITION. Where the machine's next step comes from. The block fetches no instructions (10_state.md R11): the caller's
next move, the frame in TX_BUF, the frame in RX_BUF or the phase itself says what happens, and this file turns that into an
instruction to run or into a move of its own. -/

namespace Sys2Proof.Machine

/-- What the next step is. -/
inductive Fetched where
  /-- Run the instruction in the state (the caller's move, if it was one, is taken out of the queue). -/
  | instr (i : Instr) (s : State)
  /-- A step that is no row of the opcode table: the caller touches a buffer, the block waits, a check ends the attempt, the
  outcome is reported. -/
  | move (s : State)
  /-- FAULT is not empty: no step (60_exceptions.md R102). -/
  | halted
deriving DecidableEq, Repr

/-- A call that arrives outside IDLE: TRANSCEIVE and RESET_SEQUENCE record their own usage faults (41_session.md R67, R87); a codec
operation is a concurrent call too and is R67's usage fault, its operation not performed (42_interfaces.md R97; log entry 25). For an
ENCODE_I whose payload is too large as well the spec does not say which faults are recorded: DESIGN CHOICE, Reentry alone (log entry 26). -/
def concurrentCall (c : Command) (s : State) : Fetched :=
  match c with
  | .transceive _ _ => .instr c.toInstr s
  | .resetSequence => .instr c.toInstr s
  | .encodeI _ _ => .move (raiseFault .reentry s)
  | .encodeWtxAck _ => .move (raiseFault .reentry s)
  | .decode _ => .move (raiseFault .reentry s)

/-- A call that does not wait for IDLE. -/
def callNow (c : Command) (s : State) : Fetched :=
  if s.phase = .idle then .instr c.toInstr s else concurrentCall c s

/-- The caller's next move, if it is due: `issueNow` at any time, every other move in IDLE (42_interfaces.md R97, log entry 15). -/
def callerMove (s : State) : Option Fetched :=
  match s.host with
  | [] => none
  | .issueNow c :: rest => some (callNow c { s with host := rest })
  | .issue c :: rest => if s.phase = .idle then some (.instr c.toInstr { s with host := rest }) else none
  | .writeReq bs :: rest =>
    if s.phase = .idle then some (.move { s with reqBuf := writeBytes s.reqBuf 0 bs, host := rest }) else none
  | .writeResp bs :: rest =>
    if s.phase = .idle then some (.move { s with respBuf := writeBytes s.respBuf 0 bs, host := rest }) else none

/-- The phase in which a transmitted frame is sent (41_session.md R69, R78). -/
def txPhase : Instr → Option Phase
  | .iBlockTxSeq0 _ => some .sending
  | .iBlockTxSeq1 _ => some .sending
  | .sWtxAckTx _ => some .wtxRetry
  | .iBlockRx _ _ _ => none
  | .unclassifiedRx _ _ => none
  | .rBlockRx _ _ => none
  | .sWtxRx _ => none
  | .sOtherRx _ _ => none
  | .transceive _ _ => none
  | .resetSequence => none
  | .encodeI _ _ => none
  | .encodeWtxAck _ => none
  | .decode _ => none

/-- The number of bytes of TX_BUF that the phase transmits: TX_LEN in SENDING, 4 in WTX_RETRY (41_session.md R69, R78). -/
def txCount (s : State) : Nat :=
  if s.phase = .wtxRetry then ackLen else s.txLen

/-- The step of phase SENDING or WTX_RETRY: the frame in TX_BUF is the instruction. Bytes that are no frame the block forms
are transmitted all the same (41_session.md R69, R78; log entry 21). -/
def fetchTx (s : State) : Fetched :=
  match memRead s.params.frameBufCap s.txBuf 0 (txCount s) with
  | none => .move (raiseFault .outOfBounds s)
  | some raw =>
    match decodeTx (crcOf s) raw with
    | .ok i => if txPhase i = some s.phase then .instr i s else .move (exchange raw s)
    | .error _ => .move (exchange raw s)

/-- The failure the session raises for an error of DECODE (60_exceptions.md R99; TooShort cannot arise, log entry 22). -/
def failureOf : FrameError → TransceiveError
  | .tooShort => .frameTooShort
  | .crcMismatch => .crcMismatch

/-- The step of phase AWAITING_RESPONSE up to the dispatch on the class: link status, length, CRC, in that order
(41_session.md R70 to R74; 60_exceptions.md R103). -/
def fetchRx (s : State) : Fetched :=
  if linkOk s.rxStatus = false then .move (raiseFail .linkError s)
  else if rxTooShort s.rxBits then .move (raiseFail .frameTooShort s)
  else
    match memRead s.params.frameBufCap s.rxBuf 0 (byteCount s.rxBits) with
    | none => .move (raiseFault .outOfBounds s)
    | some raw =>
      match decodeRx (crcOf s) raw with
      | .error e => .move (raiseFail (failureOf e) s)
      | .ok i => .instr i s

/-- The block's own next step, by PHASE (41_session.md R85). In IDLE it waits (70_reset_and_hazards.md R111, log entry 16). -/
def blockMove (s : State) : Fetched :=
  match s.phase with
  | .idle => .move s
  | .sending => fetchTx s
  | .awaitingResponse => fetchRx s
  | .wtxRetry => fetchTx s
  | .delivered => .move (report s)
  | .failed => .move (report s)

/-- What the next step is: nothing for a faulted block, else the caller's move if it is due, else the block's own step. -/
def fetch (s : State) : Fetched :=
  if s.fault = [] then (callerMove s).getD (blockMove s) else .halted

/-! ### Placing a frame where the next step takes it from (for State.withFetchWord) -/

/-- Put a frame into TX_BUF as the one the phase transmits next. -/
def placeTx (p : Phase) (frame : List Byte) (s : State) : State :=
  { s with phase := p, txBuf := writeBytes s.txBuf 0 frame, txLen := frame.length, host := [] }

/-- Put a frame into RX_BUF as one just received with success. -/
def placeRx (frame : List Byte) (s : State) : State :=
  { s with phase := .awaitingResponse, rxBuf := writeBytes s.rxBuf 0 frame, rxBits := bitLength frame,
           rxStatus := .success, host := [] }

/-- Put a frame where the next step takes it from: TX_BUF if the transmit side decodes it, else RX_BUF (log entries 9, 11). -/
def placeFrame (frame : List Byte) (s : State) : State :=
  match decodeTx (crcOf s) frame with
  | .ok i => placeTx ((txPhase i).getD .sending) frame s
  | .error _ => placeRx frame s

end Sys2Proof.Machine
end

