-- ==== Sys2Proof/Machine/Step.lean ====
section
/-! DEFINITION. One step of the machine: what Machine/Fetch.lean finds, run by exec if it is an instruction; and the host's
way to place an instruction where the next step takes it from. -/

namespace Sys2Proof.Machine

/-- Run what was fetched: an instruction, a move that is no instruction, or the stop of a faulted block. -/
def runFetched : Fetched → Host.Outcome State Fault Refusal
  | .instr i t => exec i t
  | .move t => .next t
  | .halted => .fault .halted

/-- One atomic step (41_session.md section 1, 92_eei_decisions.md D1). -/
def step (s : State) : Host.Outcome State Fault Refusal :=
  runFetched (fetch s)

/-- The state with the frame of a table word placed where step takes its next instruction from (log entries 9, 10, 11). -/
def State.withFetchWord (s : State) (nbits w : Nat) : State :=
  placeFrame (tableFrame (crcOf s) nbits w) s

end Sys2Proof.Machine
end

