-- ==== Sys2Proof/Safety.lean ====
section
/-! DEFINITION. The terms the claims use: the invariant of the machine, what a caller and a link that keep their contracts
are, the edges of the phase machine, what two states that agree on everything observable have in common, and single-bit
flips of a frame. -/

namespace Sys2Proof.Machine

/-! ### Phases -/

/-- An exchange attempt is in progress (10_state.md R18; DELIVERED and FAILED are terminal). -/
def inAttempt : Phase → Bool
  | .idle => false
  | .sending => true
  | .awaitingResponse => true
  | .wtxRetry => true
  | .delivered => false
  | .failed => false

/-- The edges of PHASE that 41_session.md R85 lists, IDLE staying IDLE included. -/
def phaseEdge : Phase → Phase → Bool
  | .idle, .idle => true
  | .idle, .sending => true
  | .sending, .awaitingResponse => true
  | .awaitingResponse, .failed => true
  | .awaitingResponse, .delivered => true
  | .awaitingResponse, .wtxRetry => true
  | .wtxRetry, .awaitingResponse => true
  | .delivered, .idle => true
  | .failed, .idle => true
  | _, _ => false

/-! ### The invariant -/

/-- The four buffers are in canonical form. -/
structure BuffersWf (s : State) : Prop where
  tx : s.txBuf.wf = true
  rx : s.rxBuf.wf = true
  req : s.reqBuf.wf = true
  resp : s.respBuf.wf = true

/-- The invariant every step keeps. Outside an attempt it says nothing of the attempt registers (10_state.md R24). -/
structure StateInv (s : State) : Prop where
  /-- FRAME_BUF_CAP is at least 4 (00_scope.md R1). -/
  params : s.params.ok
  buffers : BuffersWf s
  /-- WTX_CNT <= WTX_CAP (41_session.md R81). -/
  wtxBound : inAttempt s.phase = true → s.wtxCnt ≤ wtxCap
  /-- OUTCOME is None while an attempt is in progress (10_state.md R23). -/
  noOutcome : inAttempt s.phase = true → s.outcome = none
  deliveredOutcome : s.phase = .delivered → ∃ n, s.outcome = some (.delivered n)
  failedOutcome : s.phase = .failed → ∃ e, s.outcome = some (.failed e)
  /-- In SENDING, TX_BUF[0..TX_LEN) is the I-block of the current SEQ (10_state.md R20). -/
  sendingFrame : s.phase = .sending → ∃ payload : List Byte, payload.length ≤ s.params.maxFramePayload ∧
    s.txLen = payload.length + 3 ∧ readBytes s.txBuf 0 s.txLen = encodeIFrame (crcOf s) s.seq payload
  /-- In WTX_RETRY, TX_BUF[0..4) is an acknowledgement and a round-trip has begun (41_session.md R76, R80). -/
  retryFrame : s.phase = .wtxRetry → s.txLen = 4 ∧ 0 < s.wtxCnt ∧
    ∃ m : Byte, readBytes s.txBuf 0 4 = encodeWtxAckFrame (crcOf s) m
  /-- RX_BITS never exceeds the capacity once latched (42_interfaces.md R92 (c)). -/
  rxBound : s.phase = .awaitingResponse → s.rxBits ≤ s.params.rxCapBits

/-! ### Collaborators that keep their contracts -/

/-- An answer that keeps the link's contract: (c) the bit count fits the capacity, (d) on success the received bytes are
written, and the link writes inside RX_BUF (42_interfaces.md R92). -/
def LinkAnswer.keeps (p : Params) (a : LinkAnswer) : Prop :=
  a.bits ≤ p.rxCapBits ∧ a.bytes.length ≤ p.frameBufCap ∧
    (a.status = .success → byteCountUp a.bits ≤ a.bytes.length)

/-- Every coming answer of the link keeps the contract. -/
def linkKeeps (s : State) : Prop := ∀ a ∈ s.linkAnswers, a.keeps s.params

/-- The caller never calls concurrently (70_reset_and_hazards.md R114, R115). -/
def noConcurrentCall (moves : List HostMove) : Prop := ∀ c, HostMove.issueNow c ∉ moves

/-- The caller issues no RESET_SEQUENCE. -/
def noReset (moves : List HostMove) : Prop :=
  HostMove.issue .resetSequence ∉ moves ∧ HostMove.issueNow .resetSequence ∉ moves

/-- The caller keeps its duties: no concurrent call, and every operation meets its size precondition (42_interfaces.md R97). -/
def callerKeeps (s : State) : Prop :=
  noConcurrentCall s.host ∧ ∀ c, HostMove.issue c ∈ s.host → c.toInstr.wellFormed s.params = true

/-- The answer of a link that reports success and a valid S(WTX) frame with multiplier `m` (41_session.md R82). -/
def isWtxAnswer (p : Params) (m : Byte) (a : LinkAnswer) : Prop :=
  a.status = .success ∧ a.bits = bitLength a.bytes ∧ a.bytes.length ≤ p.frameBufCap ∧
    ∃ more : List Byte, a.bytes = buildFrame (crc16a p.crc) wtxPcb (m :: more)

/-- The link call that transmits a frame (42_interfaces.md R91). -/
def callOf (p : Params) (frame : List Byte) : LinkCall :=
  { txBytes := frame, txBitLen := bitLength frame, rxCapBits := p.rxCapBits }

/-! ### Counting -/

/-- The result is a delivered outcome. -/
def Result.isDelivery : Result → Bool
  | .outcome (some (.delivered _)) => true
  | .outcome (some (.failed _)) => false
  | .outcome none => false
  | .frame _ => false
  | .decoded _ => false
  | .decodeError _ => false

/-- How many attempts have been delivered: those reported, and the one the phase DELIVERED is about to report. -/
def deliveries (s : State) : Nat :=
  s.results.countP Result.isDelivery + (if s.phase = .delivered then 1 else 0)

/-! ### What can be observed -/

/-- The two states agree on everything but the attempt registers (10_state.md R24). -/
def sameOutside (s t : State) : Prop :=
  t = { s with wtxCnt := t.wtxCnt, txBuf := t.txBuf, txLen := t.txLen, rxBuf := t.rxBuf, rxBits := t.rxBits,
               rxStatus := t.rxStatus, maxResp := t.maxResp }

/-- The two states agree on everything but the attempt registers, and on that part of the attempt registers that the phase
still uses: the counter, MAX_RESP and the frame to send, or the reception as far as it is read (10_state.md R21, R24). -/
structure SameView (s t : State) : Prop where
  outside : sameOutside s t
  limits : inAttempt s.phase = true → s.wtxCnt = t.wtxCnt ∧ s.maxResp = t.maxResp
  sending : s.phase = .sending → s.txLen = t.txLen ∧ readBytes s.txBuf 0 s.txLen = readBytes t.txBuf 0 t.txLen
  retry : s.phase = .wtxRetry → readBytes s.txBuf 0 4 = readBytes t.txBuf 0 4
  status : s.phase = .awaitingResponse → (s.rxStatus = .success ↔ t.rxStatus = .success)
  reception : s.phase = .awaitingResponse → s.rxStatus = .success →
    s.rxBits = t.rxBits ∧ readBytes s.rxBuf 0 (s.rxBits / 8) = readBytes t.rxBuf 0 (t.rxBits / 8)

/-! ### Bit flips -/

/-- The frame with bit `j` of byte `i` flipped (40_frame_codec.md R65). -/
def flipBit (frame : List Byte) (i j : Nat) : List Byte :=
  frame.modify i (fun b => b ^^^ BitVec.twoPow 8 j)

end Sys2Proof.Machine
end

