-- ==== Sys2Proof/Certificates/Slice0/Obligations.lean ====
section
/-! DEFINITION. The statements for the provers. Each docstring names the rule of spec/ or the section it formalises, and, where
a clause is a decision of the spec or a choice of the model, says so. -/

open Sys2Proof Sys2Proof.Machine

/-! ### Frames and the codec -/

/-- One frame of every class, written out from 30_encoding.md section 4 and 95_test_vectors.md, decodes to its row. The CRC bytes are
those of the default CRC (general knowledge, log entry 2). -/
def Obligations.SpecFramesDecode : Prop :=
  decodeTx crcA [0x02, 0xA2, 0x01, 0x6A, 0x9D] = .ok (.iBlockTxSeq0 [0xA2, 0x01]) ∧
  decodeTx crcA [0x03, 0x65, 0x63] = .ok (.iBlockTxSeq1 []) ∧
  decodeTx crcA [0xF2, 0x03, 0x83, 0x63] = .ok (.sWtxAckTx 0x03) ∧
  decodeRx crcA [0x12, 0x90, 0x00, 0x64, 0x8C] = .ok (.iBlockRx 0b01001 0 [0x90, 0x00]) ∧
  decodeRx crcA [0x42, 0xE8, 0x30] = .ok (.unclassifiedRx 0x02 []) ∧
  decodeRx crcA [0xB2, 0x67, 0xC7] = .ok (.rBlockRx 0x32 []) ∧
  decodeRx crcA [0xF2, 0x05, 0x07, 0x9F, 0x96] = .ok (.sWtxRx [0x05, 0x07]) ∧
  decodeRx crcA [0xFA, 0x00, 0x01, 0xD3, 0x4B] = .ok (.sOtherRx 0x3A [0x00, 0x01]) ∧
  decodeRx crcA [0x02, 0x90, 0x00, 0x09, 0xF1] = .error .crcMismatch ∧
  decodeRx crcA [0x02, 0xEC] = .error .tooShort

/-- The default CRC on the reference values of 40_frame_codec.md R62, low byte first (general knowledge, log entry 2). -/
def Obligations.DefaultCrcReferenceValues : Prop :=
  crcA [0x00, 0x00] = (0xA0, 0x1E) ∧ crcA [0x12, 0x34] = (0x26, 0xCF) ∧ crcA [0x50, 0x00] = (0x57, 0xCD) ∧
  crcA [0xE0, 0x50] = (0xBC, 0xA5) ∧ crcA [0xC2] = (0xE0, 0xB4)

/-- DECODE, steps 1 and 2 (40_frame_codec.md R58, R59): fewer than three bytes are TooShort whatever the bytes; of at least three, a CRC that differs
from the trailing two bytes, byte for byte, is CrcMismatch, and one that agrees is no error. For any CRC function. The third clause is R60 and R61:
that the PCBs 0x40..0x7F too are no error is decision D6 (log entry 24). -/
def Obligations.DecodeChecksLengthThenCrc : Prop :=
  ∀ crc : CrcFun,
    (∀ raw : List Byte, raw.length < 3 → decodeFrame crc raw = .error .tooShort) ∧
    (∀ (pcb c0 c1 : Byte) (payload : List Byte),
      (crc (pcb :: payload) ≠ (c0, c1) → decodeFrame crc (pcb :: payload ++ [c0, c1]) = .error .crcMismatch) ∧
      (crc (pcb :: payload) = (c0, c1) → ∃ c : FrameClass, decodeFrame crc (pcb :: payload ++ [c0, c1]) = .ok c))

/-- The PCB map of all 256 values (30_encoding.md section 4, 40_frame_codec.md R60). The class of 0x40..0x7F is decision D6 (log entry 24);
reading pcb[0] as the sequence bit and ignoring bits 5:1 are R46's inference and decision D9. -/
def Obligations.PcbMapOfAllValues : Prop :=
  ∀ (pcb : Byte) (payload : List Byte),
    (pcb.toNat ≤ 0x3F → classify pcb payload = .iBlock (BitVec.ofNat 1 (pcb.toNat % 2)) payload) ∧
    (0x40 ≤ pcb.toNat → pcb.toNat ≤ 0x7F → classify pcb payload = .unclassified) ∧
    (0x80 ≤ pcb.toNat → pcb.toNat ≤ 0xBF → classify pcb payload = .rBlock) ∧
    (0xC0 ≤ pcb.toNat → pcb ≠ 0xF2 → classify pcb payload = .sBlock false payload) ∧
    (pcb = 0xF2 → classify pcb payload = .sBlock true payload)

/-- The I-block round trip on the machine (40_frame_codec.md R63): ENCODE_I presents a frame, and DECODE of that frame presents the
sequence bit and the payload, for every CRC primitive and every payload up to MAX_FRAME_PAYLOAD. -/
def Obligations.EncodeThenDecodeIBlock : Prop :=
  ∀ (s : State) (seq : Bit) (payload : List Byte),
    s.fault = [] → payload.length ≤ s.params.frameBufCap - 3 →
    ∃ (frame : List Byte) (t u : State),
      exec (.encodeI seq payload) s = .next t ∧ t.results = s.results ++ [.frame frame] ∧
      frame.length = payload.length + 3 ∧
      exec (.decode frame) t = .next u ∧ u.results = t.results ++ [.decoded (.iBlock seq payload)]

/-- The S(WTX) round trip on the machine (40_frame_codec.md R64), for every CRC primitive and every byte. -/
def Obligations.EncodeThenDecodeWtxAck : Prop :=
  ∀ (s : State) (m : Byte), s.fault = [] →
    ∃ (frame : List Byte) (t u : State),
      exec (.encodeWtxAck m) s = .next t ∧ t.results = s.results ++ [.frame frame] ∧ frame.length = 4 ∧
      exec (.decode frame) t = .next u ∧ u.results = t.results ++ [.decoded (.sBlock true [m])]

/-- Flipping any single bit of a frame that ENCODE_I or ENCODE_WTX_ACK produces with the default CRC makes DECODE give CrcMismatch
(40_frame_codec.md R65; the default CRC is general knowledge, log entry 2). -/
def Obligations.DefaultCrcDetectsEverySingleBitFlip : Prop :=
  (∀ (seq : Bit) (payload : List Byte) (i j : Nat), i < payload.length + 3 → j < 8 →
    decodeFrame crcA (flipBit (encodeIFrame crcA seq payload) i j) = .error .crcMismatch) ∧
  (∀ (m : Byte) (i j : Nat), i < 4 → j < 8 →
    decodeFrame crcA (flipBit (encodeWtxAckFrame crcA m) i j) = .error .crcMismatch)

/-- Flipping a bit of the two CRC bytes makes DECODE give CrcMismatch for ANY CRC function (40_frame_codec.md R65, the derived part). -/
def Obligations.CrcByteFlipDetectedForAnyCrc : Prop :=
  ∀ (crc : CrcFun) (pcb : Byte) (payload : List Byte) (i j : Nat),
    payload.length + 1 ≤ i → i < payload.length + 3 → j < 8 →
    decodeFrame crc (flipBit (buildFrame crc pcb payload) i j) = .error .crcMismatch

/-- DECODE AND ENCODE AGREE: every well-formed frame instruction is encoded, and its bytes decode to it on its side of the link, for any CRC
function and every operand (30_encoding.md section 4; the sides are log entry 8). -/
def Obligations.EncodedFramesDecodeBack : Prop :=
  ∀ (p : Params) (crc : CrcFun) (i : Instr) (d : Direction), i.direction = some d → i.wellFormed p = true →
    ∃ bytes : List Byte, encode crc i = some bytes ∧ decodeInstr crc d bytes = some i

/-- The other way: bytes that decode to an instruction are exactly that instruction's encoding, so no bit of a frame is dropped
(30_encoding.md sections 1 to 4). -/
def Obligations.DecodedFramesEncodeBack : Prop :=
  ∀ (crc : CrcFun) (d : Direction) (bytes : List Byte) (i : Instr), decodeInstr crc d bytes = some i →
    i.direction = some d ∧ encode crc i = some bytes

/-! ### The codec operations -/

/-- ENCODE_I (40_frame_codec.md R56): with at most MAX_FRAME_PAYLOAD bytes the result port gets PCB 0x02 | seq, the payload and the two
CRC bytes, and nothing else changes; with more, RequestTooLarge is recorded and no frame is built. -/
def Obligations.EncodeIBuildsFrameOrFaults : Prop :=
  ∀ (s : State) (seq : Bit) (payload : List Byte), s.fault = [] →
    (payload.length ≤ s.params.frameBufCap - 3 →
      exec (.encodeI seq payload) s = .next { s with results := s.results ++ [.frame
        ((0x02#8 ||| seq.setWidth 8) :: payload ++
          [(crcOf s ((0x02#8 ||| seq.setWidth 8) :: payload)).1,
           (crcOf s ((0x02#8 ||| seq.setWidth 8) :: payload)).2])] }) ∧
    (s.params.frameBufCap - 3 < payload.length →
      exec (.encodeI seq payload) s = .next { s with fault := [.requestTooLarge] })

/-- ENCODE_WTX_ACK (40_frame_codec.md R57): for every byte the result port gets F2, the byte and the two CRC bytes; nothing else changes. -/
def Obligations.EncodeWtxAckBuildsFrame : Prop :=
  ∀ (s : State) (m : Byte), s.fault = [] →
    exec (.encodeWtxAck m) s = .next { s with results := s.results ++ [.frame
      [0xF2, m, (crcOf s [0xF2, m]).1, (crcOf s [0xF2, m]).2]] }

/-- DECODE on the command port (40_frame_codec.md R61): the result port gets TooShort, CrcMismatch or the class, in that order; nothing else
changes. -/
def Obligations.DecodePresentsItsResult : Prop :=
  ∀ s : State, s.fault = [] →
    (∀ raw : List Byte, raw.length < 3 →
      exec (.decode raw) s = .next { s with results := s.results ++ [.decodeError .tooShort] }) ∧
    (∀ (pcb c0 c1 : Byte) (payload : List Byte), crcOf s (pcb :: payload) ≠ (c0, c1) →
      exec (.decode (pcb :: payload ++ [c0, c1])) s =
        .next { s with results := s.results ++ [.decodeError .crcMismatch] }) ∧
    (∀ (pcb c0 c1 : Byte) (payload : List Byte), crcOf s (pcb :: payload) = (c0, c1) →
      exec (.decode (pcb :: payload ++ [c0, c1])) s =
        .next { s with results := s.results ++ [.decoded (classify pcb payload)] })

/-- The codec operations read no register and write no register or buffer (40_frame_codec.md R55): for given parameters each does one and
the same thing in every state: it presents one fixed result, or it records RequestTooLarge. -/
def Obligations.CodecOperationsAreStateless : Prop :=
  ∀ (p : Params) (c : Command), (∀ n k, c ≠ .transceive n k) → c ≠ .resetSequence →
    (∃ r : Result, ∀ s : State, s.params = p → s.fault = [] →
      exec c.toInstr s = .next { s with results := s.results ++ [r] }) ∨
    (∀ s : State, s.params = p → s.fault = [] → exec c.toInstr s = .next { s with fault := [.requestTooLarge] })

/-! ### The session operations -/

/-- TRANSCEIVE with both preconditions met (41_session.md R68): TX_BUF[0..TX_LEN) is the I-block of the current SEQ and the request bytes,
the attempt registers are set, phase SENDING; the rest of TX_BUF and every other register and buffer is unchanged. -/
def Obligations.TransceiveStartsAttempt : Prop :=
  ∀ (s : State) (reqLen maxLen : Nat), s.fault = [] → s.phase = .idle → s.params.ok → s.txBuf.wf = true →
    reqLen ≤ s.params.frameBufCap - 3 →
    ∃ t : State, exec (.transceive reqLen maxLen) s = .next t ∧
      t = { s with txBuf := t.txBuf, txLen := reqLen + 3, maxResp := maxLen, wtxCnt := 0, outcome := none,
                   phase := .sending } ∧
      readBytes t.txBuf 0 t.txLen =
        (0x02#8 ||| s.seq.setWidth 8) :: readBytes s.reqBuf 0 reqLen ++
          [(crcOf s ((0x02#8 ||| s.seq.setWidth 8) :: readBytes s.reqBuf 0 reqLen)).1,
           (crcOf s ((0x02#8 ||| s.seq.setWidth 8) :: readBytes s.reqBuf 0 reqLen)).2] ∧
      ∀ a : Nat, reqLen + 3 ≤ a → readByte t.txBuf a = readByte s.txBuf a

/-- TRANSCEIVE with a broken precondition (41_session.md R67, decisions D12, D13): the usage fault is recorded and no other state changes.
That both faults are recorded when both preconditions are broken is the model's reading (log entry 14). -/
def Obligations.TransceiveRecordsBrokenPreconditions : Prop :=
  ∀ (s : State) (reqLen maxLen : Nat), s.fault = [] →
    (s.phase ≠ .idle → reqLen ≤ s.params.frameBufCap - 3 →
      exec (.transceive reqLen maxLen) s = .next { s with fault := [.reentry] }) ∧
    (s.phase = .idle → s.params.frameBufCap - 3 < reqLen →
      exec (.transceive reqLen maxLen) s = .next { s with fault := [.requestTooLarge] }) ∧
    (s.phase ≠ .idle → s.params.frameBufCap - 3 < reqLen →
      exec (.transceive reqLen maxLen) s = .next { s with fault := [.reentry, .requestTooLarge] })

/-- RESET_SEQUENCE (41_session.md R87): in IDLE, SEQ <- 0 and nothing else changes, so a second one changes nothing; in another phase
ResetWhileBusy is recorded and nothing else changes (decision D13). -/
def Obligations.ResetSequenceClearsSeq : Prop :=
  ∀ s : State, s.fault = [] →
    (s.phase = .idle → exec .resetSequence s = .next { s with seq := 0 } ∧
      exec .resetSequence { s with seq := 0 } = .next { s with seq := 0 }) ∧
    (s.phase ≠ .idle → exec .resetSequence s = .next { s with fault := [.resetWhileBusy] })

/-! ### Transmitted frames -/

/-- The three transmitted frames (41_session.md R69, R78; 42_interfaces.md R91), of a length that TX_BUF holds: with an answer of any status whose
bits and bytes fit RX_BUF, the frame goes out as whole bytes (decision D14) with the receive capacity, the answer is latched into RX_STATUS, RX_BITS
and RX_BUF, and the phase is AWAITING_RESPONSE; the other bytes of RX_BUF and every other register and buffer are unchanged. More than the
link's contract is covered, by the model's choice: a success with fewer bytes than its bits need, item (d) of R92, is latched and leaves RX_BUF's other
bytes (log entry 19), and the bytes of an answer that is no success land in RX_BUF (log entry 20). -/
def Obligations.TransmittedFrameIsOneExchange : Prop :=
  ∀ (s : State) (i : Instr) (frame : List Byte), s.fault = [] → s.rxBuf.wf = true →
    (linkAnswer s).bits ≤ 8 * s.params.frameBufCap → (linkAnswer s).bytes.length ≤ s.params.frameBufCap →
    ((∃ payload : List Byte, i = .iBlockTxSeq0 payload ∧ s.phase = .sending ∧
        frame = 0x02 :: payload ++ [(crcOf s (0x02 :: payload)).1, (crcOf s (0x02 :: payload)).2]) ∨
     (∃ payload : List Byte, i = .iBlockTxSeq1 payload ∧ s.phase = .sending ∧
        frame = 0x03 :: payload ++ [(crcOf s (0x03 :: payload)).1, (crcOf s (0x03 :: payload)).2]) ∨
     (∃ m : Byte, i = .sWtxAckTx m ∧ s.phase = .wtxRetry ∧
        frame = [0xF2, m, (crcOf s [0xF2, m]).1, (crcOf s [0xF2, m]).2])) →
    frame.length ≤ s.params.frameBufCap →
    ∃ t : State, exec i s = .next t ∧
      t = { s with linkCalls := s.linkCalls ++ [{ txBytes := frame, txBitLen := 8 * frame.length,
                                                  rxCapBits := 8 * s.params.frameBufCap }]
                   linkAnswers := s.linkAnswers.tail, draws := t.draws, rxStatus := (linkAnswer s).status,
                   rxBits := (linkAnswer s).bits, rxBuf := t.rxBuf, phase := .awaitingResponse } ∧
      readBytes t.rxBuf 0 (linkAnswer s).bytes.length = (linkAnswer s).bytes ∧
      ∀ a : Nat, (linkAnswer s).bytes.length ≤ a → readByte t.rxBuf a = readByte s.rxBuf a

/-- A transmitted frame longer than TX_BUF (20_memory.md R29, decision D12): in its phase OutOfBounds is recorded, nothing is sent and nothing else
changes. No run reaches such a frame (DutifulCallerAndLinkNeverFault). -/
def Obligations.FrameLongerThanTxBufIsOutOfBounds : Prop :=
  ∀ s : State, s.fault = [] →
    (s.phase = .sending → ∀ payload : List Byte, s.params.frameBufCap < payload.length + 3 →
      exec (.iBlockTxSeq0 payload) s = .next { s with fault := [.outOfBounds] } ∧
      exec (.iBlockTxSeq1 payload) s = .next { s with fault := [.outOfBounds] }) ∧
    (s.phase = .wtxRetry → s.params.frameBufCap < 4 → ∀ m : Byte,
      exec (.sWtxAckTx m) s = .next { s with fault := [.outOfBounds] })

/-- A free draw of the link keeps the link's contract: any status, at most RX_CAP_BITS bits, and the received bytes written
(42_interfaces.md R92, R93; the free draw is log entry 4). -/
def Obligations.FreeDrawKeepsLinkContract : Prop :=
  ∀ (s : State), s.linkAnswers = [] →
    (linkAnswer s).bits ≤ 8 * s.params.frameBufCap ∧
    (linkAnswer s).bytes.length = ((linkAnswer s).bits + 7) / 8 ∧
    (linkAnswer s).bytes.length ≤ s.params.frameBufCap

/-- An answer of more than RX_CAP_BITS bits (42_interfaces.md R92, decision D15): LinkContract is recorded, nothing is latched, the phase
stays. That the frame still counts as transmitted, and that a byte run longer than RX_BUF is OutOfBounds, is the model's choice (log entry 19). -/
def Obligations.LinkContractBreachIsRecorded : Prop :=
  ∀ s : State, s.fault = [] → (s.phase = .sending ∨ s.phase = .wtxRetry) → callerMove s = none →
    txCount s ≤ s.params.frameBufCap →
    (8 * s.params.frameBufCap < (linkAnswer s).bits →
      ∃ t : State, step s = .next t ∧
        t = { s with fault := [.linkContract], linkCalls := t.linkCalls, linkAnswers := s.linkAnswers.tail,
                     draws := t.draws }) ∧
    ((linkAnswer s).bits ≤ 8 * s.params.frameBufCap → s.params.frameBufCap < (linkAnswer s).bytes.length →
      ∃ t : State, step s = .next t ∧
        t = { s with fault := [.outOfBounds], linkCalls := t.linkCalls, linkAnswers := s.linkAnswers.tail,
                     draws := t.draws })

/-- An access outside a buffer is not performed: OutOfBounds is recorded and nothing else changes (20_memory.md R29, decision D12): TX_BUF read beyond
FRAME_BUF_CAP in SENDING, RX_BUF read beyond it in AWAITING_RESPONSE. -/
def Obligations.OutOfBoundsAccessIsRecorded : Prop :=
  ∀ s : State, s.fault = [] → callerMove s = none →
    (s.phase = .sending → s.params.frameBufCap < s.txLen → step s = .next { s with fault := [.outOfBounds] }) ∧
    (s.phase = .awaitingResponse → s.rxStatus = .success → 24 ≤ s.rxBits → s.params.frameBufCap < s.rxBits / 8 →
      step s = .next { s with fault := [.outOfBounds] })

/-! ### Received frames -/

/-- An I-block whose payload fits (41_session.md R75): the payload is in RESP_BUF[0..n), the bytes beyond keep their values, SEQ is toggled,
OUTCOME is Delivered(n), the phase DELIVERED; nothing else changes. Neither sequence bit nor bits 5:1 of the PCB are looked at (decision D9). -/
def Obligations.IBlockIsDelivered : Prop :=
  ∀ (s : State) (flags : BitVec 5) (seq : Bit) (payload : List Byte), s.fault = [] → s.phase = .awaitingResponse →
    s.respBuf.wf = true → payload.length ≤ s.maxResp →
    ∃ t : State, exec (.iBlockRx flags seq payload) s = .next t ∧
      t = { s with respBuf := t.respBuf, seq := s.seq ^^^ 1#1, outcome := some (.delivered payload.length),
                   phase := .delivered } ∧
      readBytes t.respBuf 0 payload.length = payload ∧
      ∀ a : Nat, payload.length ≤ a → readByte t.respBuf a = readByte s.respBuf a

/-- An I-block whose payload is longer than MAX_RESP (41_session.md R75, 90_conflicts.md C1): ResponseTooLarge, and neither SEQ nor RESP_BUF
changes. -/
def Obligations.IBlockTooLargeFails : Prop :=
  ∀ (s : State) (flags : BitVec 5) (seq : Bit) (payload : List Byte), s.fault = [] → s.phase = .awaitingResponse →
    s.maxResp < payload.length →
    exec (.iBlockRx flags seq payload) s =
      .next { s with outcome := some (.failed .responseTooLarge), phase := .failed }

/-- An S(WTX) with a multiplier below the cap (41_session.md R76): TX_BUF[0..4) is the acknowledgement with the multiplier verbatim, later
payload bytes are ignored (decision D7), TX_LEN = 4, WTX_CNT goes up by one, phase WTX_RETRY; the rest of TX_BUF and everything else is unchanged. -/
def Obligations.WtxRequestIsAcknowledged : Prop :=
  ∀ (s : State) (m : Byte) (more : List Byte), s.fault = [] → s.phase = .awaitingResponse → s.params.ok →
    s.txBuf.wf = true → s.wtxCnt ≠ 10 →
    ∃ t : State, exec (.sWtxRx (m :: more)) s = .next t ∧
      t = { s with txBuf := t.txBuf, txLen := 4, wtxCnt := s.wtxCnt + 1, phase := .wtxRetry } ∧
      readBytes t.txBuf 0 4 = [0xF2, m, (crcOf s [0xF2, m]).1, (crcOf s [0xF2, m]).2] ∧
      ∀ a : Nat, 4 ≤ a → readByte t.txBuf a = readByte s.txBuf a

/-- An S(WTX) that is not acknowledged (41_session.md R76, R81): without a multiplier UnsupportedBlock, whatever the counter (decision D7);
with one, WtxExceeded when WTX_CNT is the cap 10 (decision D4). Nothing else changes. -/
def Obligations.WtxRequestIsRefused : Prop :=
  ∀ s : State, s.fault = [] → s.phase = .awaitingResponse →
    exec (.sWtxRx []) s = .next { s with outcome := some (.failed .unsupportedBlock), phase := .failed } ∧
    (s.wtxCnt = 10 → ∀ (m : Byte) (more : List Byte),
      exec (.sWtxRx (m :: more)) s = .next { s with outcome := some (.failed .wtxExceeded), phase := .failed })

/-- R-blocks, other S-blocks and unclassified blocks (41_session.md R77; the class of PCB 01 is decision D6): UnsupportedBlock and nothing else. -/
def Obligations.UnsupportedBlocksFail : Prop :=
  ∀ (s : State) (low : BitVec 6) (body : List Byte) (i : Instr), s.fault = [] → s.phase = .awaitingResponse →
    (i = .unclassifiedRx low body ∨ i = .rBlockRx low body ∨ i = .sOtherRx low body) →
    exec i s = .next { s with outcome := some (.failed .unsupportedBlock), phase := .failed }

/-- A frame instruction outside the phase that sends or reads it is refused by name; a transition from there does not exist (41_session.md R85).
That exec refuses it is the model's choice (log entry 12). -/
def Obligations.FrameOutsideItsPhaseIsRefused : Prop :=
  ∀ (s : State) (i : Instr), s.fault = [] →
    (i.direction = some .rx → s.phase ≠ .awaitingResponse → exec i s = .refused (.noTransition s.phase)) ∧
    (i.direction = some .tx → txPhase i ≠ some s.phase → exec i s = .refused (.noTransition s.phase))

/-! ### The step -/

/-- A STEP RUNS THE DECODED INSTRUCTION: the operation the caller issues, the frame in TX_BUF, the frame in RX_BUF (10_state.md R11,
41_session.md R68, R69, R74, R78). Around exec, a step only takes the operation out of the caller's queue (log entry 15). A codec operation called
outside IDLE is ConcurrentCallIsAUsageFault's. -/
def Obligations.StepRunsTheDecodedInstruction : Prop :=
  ∀ s : State, s.fault = [] →
    (∀ (c : Command) (rest : List HostMove), s.host = .issue c :: rest → s.phase = .idle →
      step s = exec c.toInstr { s with host := rest }) ∧
    (∀ (c : Command) (rest : List HostMove), s.host = .issueNow c :: rest →
      (s.phase = .idle ∨ (∃ n k : Nat, c = .transceive n k) ∨ c = .resetSequence) →
      step s = exec c.toInstr { s with host := rest }) ∧
    (∀ i : Instr, callerMove s = none → s.phase = .sending → s.txLen ≤ s.params.frameBufCap →
      decodeTx (crcOf s) (readBytes s.txBuf 0 s.txLen) = .ok i → txPhase i = some .sending → step s = exec i s) ∧
    (∀ i : Instr, callerMove s = none → s.phase = .wtxRetry → s.params.ok →
      decodeTx (crcOf s) (readBytes s.txBuf 0 4) = .ok i → txPhase i = some .wtxRetry → step s = exec i s) ∧
    (∀ i : Instr, callerMove s = none → s.phase = .awaitingResponse → s.rxStatus = .success → 24 ≤ s.rxBits →
      s.rxBits / 8 ≤ s.params.frameBufCap →
      decodeRx (crcOf s) (readBytes s.rxBuf 0 (s.rxBits / 8)) = .ok i → step s = exec i s)

/-- A call that arrives while the block is not in IDLE is a usage fault, its operation is not performed and no other state changes (42_interfaces.md R97;
41_session.md R67, R85, R87; decision D13): Reentry for TRANSCEIVE, with RequestTooLarge beside it if that is broken too (log entry 14), ResetWhileBusy for
RESET_SEQUENCE, and Reentry for a codec operation, which R97 gives R67's fault (log entry 25). That an ENCODE_I with too large a payload records Reentry
alone is the model's choice (log entry 26). -/
def Obligations.ConcurrentCallIsAUsageFault : Prop :=
  ∀ (s : State) (c : Command) (rest : List HostMove), s.fault = [] → s.phase ≠ .idle → s.host = .issueNow c :: rest →
    step s = .next { s with
      host := rest
      fault := match c with
        | .transceive n _ => if s.params.frameBufCap - 3 < n then [.reentry, .requestTooLarge] else [.reentry]
        | .resetSequence => [.resetWhileBusy]
        | .encodeI _ _ => [.reentry]
        | .encodeWtxAck _ => [.reentry]
        | .decode _ => [.reentry] }

/-- In SENDING and WTX_RETRY the bytes transmitted are those that stand in TX_BUF: TX_BUF[0..TX_LEN), TX_BUF[0..4) (41_session.md R69, R78).
That bytes which are no frame of the block go out too is the model's reading (log entry 21). -/
def Obligations.StepTransmitsWhatStandsInTxBuf : Prop :=
  ∀ (s t : State) (n : Nat), s.fault = [] → callerMove s = none →
    (s.phase = .sending ∧ n = s.txLen ∨ s.phase = .wtxRetry ∧ n = 4) → n ≤ s.params.frameBufCap →
    step s = .next t →
    t.linkCalls = s.linkCalls ++ [{ txBytes := readBytes s.txBuf 0 n, txBitLen := 8 * n,
                                    rxCapBits := 8 * s.params.frameBufCap }]

/-- Check (a), first part (41_session.md R70): a status that is not success ends the attempt with LinkError, whatever RX_BITS and the code. -/
def Obligations.LinkErrorEndsAttempt : Prop :=
  ∀ (s : State) (code : Nat), s.fault = [] → callerMove s = none → s.phase = .awaitingResponse →
    s.rxStatus = .error code →
    step s = .next { s with outcome := some (.failed .linkError), phase := .failed }

/-- Check (a), second part (41_session.md R71): success with fewer than 24 bits ends the attempt with FrameTooShort. -/
def Obligations.ShortReceptionEndsAttempt : Prop :=
  ∀ s : State, s.fault = [] → callerMove s = none → s.phase = .awaitingResponse → s.rxStatus = .success →
    s.rxBits < 24 →
    step s = .next { s with outcome := some (.failed .frameTooShort), phase := .failed }

/-- One reception in full, in the fixed order of 60_exceptions.md R103 (41_session.md R70 to R77; the counting of whole bytes is decision D5,
the classes and the place of the empty S(WTX) are D6 and D7): what the step makes of OUTCOME and PHASE, and of SEQ. -/
def Obligations.ReceptionIsDecidedInOrder : Prop :=
  ∀ (s : State) (pcb c0 c1 : Byte) (payload : List Byte), s.fault = [] → callerMove s = none →
    s.phase = .awaitingResponse → s.rxStatus = .success → 24 ≤ s.rxBits → s.params.ok →
    s.rxBits / 8 ≤ s.params.frameBufCap →
    readBytes s.rxBuf 0 (s.rxBits / 8) = pcb :: payload ++ [c0, c1] →
    ∃ t : State, step s = .next t ∧ t.fault = [] ∧
      (if crcOf s (pcb :: payload) ≠ (c0, c1) then
        t.outcome = some (.failed .crcMismatch) ∧ t.phase = .failed ∧ t.seq = s.seq ∧ t.respBuf = s.respBuf
      else if pcb.toNat < 0x40 then
        if s.maxResp < payload.length then
          t.outcome = some (.failed .responseTooLarge) ∧ t.phase = .failed ∧ t.seq = s.seq ∧ t.respBuf = s.respBuf
        else
          t.outcome = some (.delivered payload.length) ∧ t.phase = .delivered ∧ t.seq = s.seq ^^^ 1#1
      else if pcb = 0xF2 ∧ payload ≠ [] then
        if s.wtxCnt = 10 then
          t.outcome = some (.failed .wtxExceeded) ∧ t.phase = .failed ∧ t.seq = s.seq ∧ t.respBuf = s.respBuf
        else
          t.outcome = s.outcome ∧ t.phase = .wtxRetry ∧ t.wtxCnt = s.wtxCnt + 1 ∧ t.seq = s.seq ∧
            t.respBuf = s.respBuf
      else
        t.outcome = some (.failed .unsupportedBlock) ∧ t.phase = .failed ∧ t.seq = s.seq ∧ t.respBuf = s.respBuf)

/-- The terminal phases (41_session.md R79; the return to IDLE is decision D11): OUTCOME is presented on the result port and the block goes to
IDLE; nothing else changes but the attempt registers, of which nothing is said: in IDLE they hold any value (10_state.md R24, decision D27), in the model free
values (log entry 7), and `draws` counts the draw. -/
def Obligations.TerminalPhaseReportsAndReturns : Prop :=
  ∀ s : State, s.fault = [] → callerMove s = none → (s.phase = .delivered ∨ s.phase = .failed) →
    ∃ t : State, step s = .next t ∧
      sameOutside { s with results := s.results ++ [.outcome s.outcome], phase := .idle, draws := t.draws } t

/-- In IDLE with nothing to do the block waits (70_reset_and_hazards.md R111; that a step then changes nothing is log entry 16), and a caller may
lay out its buffers between operations (42_interfaces.md R97; log entry 15). Nothing is said of the attempt registers, which are unspecified in IDLE (10_state.md
R24, decision D27; log entry 7). -/
def Obligations.IdleWaitsForTheCaller : Prop :=
  ∀ s : State, s.fault = [] → s.phase = .idle → s.reqBuf.wf = true → s.respBuf.wf = true →
    (s.host = [] → ∃ t : State, step s = .next t ∧ sameOutside s t) ∧
    (∀ (bs : List Byte) (rest : List HostMove), s.host = .writeReq bs :: rest →
      ∃ t : State, step s = .next t ∧ sameOutside { s with reqBuf := t.reqBuf, host := rest } t ∧
        readBytes t.reqBuf 0 bs.length = bs ∧ ∀ a : Nat, bs.length ≤ a → readByte t.reqBuf a = readByte s.reqBuf a) ∧
    (∀ (bs : List Byte) (rest : List HostMove), s.host = .writeResp bs :: rest →
      ∃ t : State, step s = .next t ∧ sameOutside { s with respBuf := t.respBuf, host := rest } t ∧
        readBytes t.respBuf 0 bs.length = bs ∧ ∀ a : Nat, bs.length ≤ a → readByte t.respBuf a = readByte s.respBuf a)

/-- A block with a non-empty FAULT takes no further step, by step or by exec, and a step of any other block has a next state: it is never
refused (60_exceptions.md R100, R102; the shape of the stop is log entry 13). -/
def Obligations.OnlyAFaultedBlockStops : Prop :=
  ∀ s : State,
    (s.fault ≠ [] → step s = .fault .halted ∧ ∀ i : Instr, exec i s = .fault .halted) ∧
    (s.fault = [] → ∃ t : State, step s = .next t)

/-! ### Whole-machine rules -/

/-- After power-on, for every parameters (70_reset_and_hazards.md R109, decisions D10 and D11): IDLE, OUTCOME None, FAULT empty, SEQ 0. -/
def Obligations.PowerOnState : Prop :=
  ∀ p : Params, (State.powerOn p).phase = .idle ∧ (State.powerOn p).outcome = none ∧ (State.powerOn p).fault = [] ∧
    (State.powerOn p).seq = 0 ∧ (State.powerOn p).params = p ∧ State.reset = State.powerOn Params.default

/-- The invariant holds after power-on for every legal parameters. -/
def Obligations.InvariantHoldsAtReset : Prop :=
  (∀ p : Params, p.ok → StateInv (State.powerOn p)) ∧ StateInv State.reset

/-- AN INVARIANT THAT EVERY STEP KEEPS: the buffers stay canonical, WTX_CNT stays within WTX_CAP, OUTCOME fits the phase, TX_BUF holds the frame
of the phase, RX_BITS stays within the capacity (41_session.md R81; 10_state.md R20, R21, R23). -/
def Obligations.EveryStepKeepsTheInvariant : Prop :=
  ∀ s t : State, StateInv s → step s = .next t → StateInv t

/-- Every step, from any state, keeps the four buffers in canonical form and the parameters as they are (10_state.md R13). -/
def Obligations.EveryStepKeepsBuffersCanonical : Prop :=
  ∀ s t : State, BuffersWf s → step s = .next t → BuffersWf t ∧ t.params = s.params

/-- Exactly two rules write SEQ (10_state.md R14): a delivered I-block toggles it, RESET_SEQUENCE in IDLE clears it, and every step that is neither leaves it. -/
def Obligations.SeqHasTwoWriters : Prop :=
  ∀ s t : State, step s = .next t →
    (s.phase = .awaitingResponse ∧ t.phase = .delivered ∧ t.seq = s.seq ^^^ 1#1) ∨
    (s.phase = .idle ∧ t.phase = .idle ∧ t.seq = 0 ∧
      ∃ rest, s.host = .issue .resetSequence :: rest ∨ s.host = .issueNow .resetSequence :: rest) ∨
    (¬ (s.phase = .awaitingResponse ∧ t.phase = .delivered) ∧
      ¬ (s.phase = .idle ∧ ∃ rest, s.host = .issue .resetSequence :: rest ∨ s.host = .issueNow .resetSequence :: rest) ∧
      t.seq = s.seq)

/-- Only TRANSCEIVE reads SEQ (10_state.md R14): with another value in SEQ any other instruction does the same to everything else; SEQ itself is toggled by a
delivered I-block, cleared by RESET_SEQUENCE in IDLE, and otherwise kept. -/
def Obligations.OnlyTransceiveReadsSeq : Prop :=
  ∀ (s t : State) (i : Instr) (b : Bit), (∀ n k, i ≠ .transceive n k) → exec i s = .next t →
    ∃ b' : Bit, exec i { s with seq := b } = .next { t with seq := b' } ∧
      (((∃ flags seq payload, i = .iBlockRx flags seq payload) ∧ t.phase = .delivered ∧ b' = b ^^^ 1#1) ∨
       (i = .resetSequence ∧ s.phase = .idle ∧ b' = 0) ∨
       (t.seq = s.seq ∧ b' = b))

/-- RESP_BUF is written by the block at one point only, the delivery of an I-block (20_memory.md R27); the caller writes it in IDLE; every other step
leaves it, so every failure does. -/
def Obligations.RespBufHasOneWriter : Prop :=
  ∀ s t : State, step s = .next t →
    (s.phase = .awaitingResponse ∧ t.phase = .delivered) ∨
    (s.phase = .idle ∧ ∃ bs rest, s.host = .writeResp bs :: rest) ∨
    t.respBuf = s.respBuf

/-- The block never writes REQ_BUF, and TRANSCEIVE alone reads it (20_memory.md R28): any other instruction does the same whatever REQ_BUF holds. -/
def Obligations.ReqBufIsReadByTransceiveOnly : Prop :=
  ∀ (s t : State) (i : Instr), exec i s = .next t →
    t.reqBuf = s.reqBuf ∧
    ((∀ n k, i ≠ .transceive n k) → ∀ m : Memory, exec i { s with reqBuf := m } = .next { t with reqBuf := m })

/-- The transition relation of PHASE (41_session.md R85): a step that records no usage fault takes one of its edges or stays in IDLE; a step that records one
leaves the phase. -/
def Obligations.PhaseTakesListedEdgesOnly : Prop :=
  ∀ s t : State, step s = .next t →
    (t.fault ≠ [] → t.phase = s.phase) ∧ (t.fault = [] → phaseEdge s.phase t.phase = true)

/-- Only SENDING and WTX_RETRY call the link, once a step, with whole bytes and RX_CAP_BITS (42_interfaces.md R91), and a frame once transmitted is never
taken back (20_memory.md R36). -/
def Obligations.LinkIsCalledInTwoPhasesOnly : Prop :=
  ∀ s t : State, step s = .next t →
    t.linkCalls = s.linkCalls ∨
    ((s.phase = .sending ∨ s.phase = .wtxRetry) ∧
      ∃ frame : List Byte, t.linkCalls = s.linkCalls ++
        [{ txBytes := frame, txBitLen := 8 * frame.length, rxCapBits := 8 * s.params.frameBufCap }])

/-- The frames the block transmits (30_encoding.md R45, R49): in SENDING an I-block whose PCB is 0x02 | SEQ and no other, in WTX_RETRY an
acknowledgement whose PCB is 0xF2; no other step transmits. The invariant says that TX_BUF holds the frame of the phase. -/
def Obligations.TransmittedPcbIsTheBlocksOwn : Prop :=
  ∀ s t : State, StateInv s → step s = .next t →
    t.linkCalls = s.linkCalls ∨
    ∃ c : LinkCall, t.linkCalls = s.linkCalls ++ [c] ∧
      ((s.phase = .sending ∧ ∃ payload : List Byte,
          c.txBytes = (0x02#8 ||| s.seq.setWidth 8) :: payload ++
            [(crcOf s ((0x02#8 ||| s.seq.setWidth 8) :: payload)).1,
             (crcOf s ((0x02#8 ||| s.seq.setWidth 8) :: payload)).2]) ∨
       (s.phase = .wtxRetry ∧ ∃ m : Byte,
          c.txBytes = [0xF2, m, (crcOf s [0xF2, m]).1, (crcOf s [0xF2, m]).2]))

/-- TAKING A FAILURE and the way back (60_exceptions.md R100, R104; 41_session.md R79): every step into FAILED comes from AWAITING_RESPONSE and writes OUTCOME =
Failed(e) and PHASE and nothing else; the block's next step presents that outcome and is in IDLE (decision D11), where it takes a TRANSCEIVE again. Nothing is said of
the attempt registers from then on, which are not preserved (10_state.md R24, decision D27; log entry 7). -/
def Obligations.FailureSavesTheOutcomeOnly : Prop :=
  ∀ s t : State, step s = .next t → s.phase ≠ .failed → t.phase = .failed →
    s.phase = .awaitingResponse ∧
    ∃ e : TransceiveError, t = { s with outcome := some (.failed e), phase := .failed } ∧
      (callerMove t = none →
        ∃ u : State, step t = .next u ∧
          sameOutside { t with results := t.results ++ [.outcome (some (.failed e))], phase := .idle, draws := u.draws } u ∧
          ∀ n k : Nat, u.params.ok → n ≤ u.params.frameBufCap - 3 →
            ∃ v : State, exec (.transceive n k) u = .next v ∧ v.phase = .sending)

/-- The block does not tell link error codes apart (00_scope.md R7, decision D19): the step of AWAITING_RESPONSE on two receptions that differ in their
error codes only gives states that differ in RX_STATUS only, and the failure carries no code. -/
def Obligations.LinkErrorCodeIsNotObserved : Prop :=
  ∀ (s t : State) (c d : Nat), s.rxStatus = .error c → step s = .next t →
    ∃ t' : State, step { s with rxStatus := .error d } = .next t' ∧ t' = { t with rxStatus := t'.rxStatus }

/-- Each usage fault is recorded for its own cause (60_exceptions.md R101): a step of a block whose caller and link keep their duties, in a state that meets
the invariant, records none, and the duties and the invariant go on (20_memory.md R29). -/
def Obligations.DutifulCallerAndLinkNeverFault : Prop :=
  ∀ s : State, StateInv s → s.fault = [] → callerKeeps s → linkKeeps s →
    ∃ t : State, step s = .next t ∧ t.fault = [] ∧ StateInv t ∧ callerKeeps t ∧ linkKeeps t

/-- The attempt registers cannot be observed outside an attempt (10_state.md R24, decision D27): two states that agree on everything else, and on what the
phase still uses of them, step to two such states; in IDLE and in the terminal phases they need agree on none of them. The link keeps its contract. -/
def Obligations.AttemptRegistersAreUnobservable : Prop :=
  (∀ s s' t : State, SameView s t → BuffersWf s → BuffersWf t → linkKeeps s → step s = .next s' →
    ∃ t' : State, step t = .next t' ∧ SameView s' t') ∧
  (∀ s t : State, inAttempt s.phase = false → sameOutside s t → SameView s t)

/-! ### Whole attempts -/

/-- The WTX bound (41_session.md R82): against a link whose eleven next answers are valid S(WTX) frames with multipliers, a TRANSCEIVE makes exactly 11 link
exchanges, the I-block and then 10 acknowledgements that echo the first ten multipliers, and ends back in IDLE with Failed(WtxExceeded), SEQ and RESP_BUF
unchanged. The counting is decision D4. -/
def Obligations.AlwaysWtxLinkEndsAfterTenRoundTrips : Prop :=
  ∀ (s : State) (reqLen maxLen : Nat) (ms : List Byte) (answers more : List LinkAnswer)
    (rest : List HostMove),
    s.fault = [] → s.phase = .idle → s.params.ok → BuffersWf s → noConcurrentCall rest →
    s.host = .issue (.transceive reqLen maxLen) :: rest → reqLen ≤ s.params.frameBufCap - 3 →
    s.linkAnswers = answers ++ more → ms.length = 11 → answers.length = 11 →
    (∀ (k : Nat) (m : Byte) (a : LinkAnswer), ms[k]? = some m → answers[k]? = some a → isWtxAnswer s.params m a) →
    ∃ t : State, Host.Core.run Sys2Proof.core 24 s = .next t ∧ t.phase = .idle ∧ t.fault = [] ∧
      t.outcome = some (.failed .wtxExceeded) ∧ t.results = s.results ++ [.outcome (some (.failed .wtxExceeded))] ∧
      t.seq = s.seq ∧ t.respBuf = s.respBuf ∧
      t.linkCalls = s.linkCalls ++
        callOf s.params (encodeIFrame (crcOf s) s.seq (readBytes s.reqBuf 0 reqLen)) ::
          (ms.take 10).map (fun m => callOf s.params (encodeWtxAckFrame (crcOf s) m))

/-- Every attempt ends (41_session.md R83, 70_reset_and_hazards.md R119): a TRANSCEIVE that passes its preconditions, with a link that keeps its contract and a
caller that does not call concurrently, reaches DELIVERED or FAILED within 2 * (WTX_CAP + 1) + 2 steps and makes between 1 and WTX_CAP + 1 link exchanges. -/
def Obligations.EveryAttemptEndsWithinTheBound : Prop :=
  ∀ (s : State) (reqLen maxLen : Nat) (rest : List HostMove),
    s.fault = [] → s.phase = .idle → s.params.ok → noConcurrentCall rest → linkKeeps s →
    s.host = .issue (.transceive reqLen maxLen) :: rest → reqLen ≤ s.params.frameBufCap - 3 →
    ∃ (k n : Nat) (t : State), k ≤ 2 * (10 + 1) + 2 ∧ Host.Core.run Sys2Proof.core k s = .next t ∧ t.fault = [] ∧
      (t.phase = .delivered ∨ t.phase = .failed) ∧
      t.linkCalls.length = s.linkCalls.length + n ∧ 1 ≤ n ∧ n ≤ 10 + 1

/-- Sequence toggling (10_state.md R17): along every run in which no RESET_SEQUENCE is issued, SEQ has moved by the number of deliveries modulo 2, with any number
of failed attempts between them. -/
def Obligations.SeqCountsDeliveriesModTwo : Prop :=
  ∀ (k : Nat) (s t : State), StateInv s → noReset s.host → Host.Core.run Sys2Proof.core k s = .next t →
    ∃ n : Nat, deliveries t = deliveries s + n ∧ t.seq = s.seq + BitVec.ofNat 1 n

/-- Every path to FAILED leaves SEQ, RESP_BUF and REQ_BUF as they were when the attempt started (41_session.md R86): k steps from an IDLE state in which the
caller issues TRANSCEIVE, with the attempt in progress all the while and FAILED at its end. -/
def Obligations.FailedAttemptLeavesSeqAndBuffers : Prop :=
  ∀ (k : Nat) (s t : State) (reqLen maxLen : Nat) (rest : List HostMove),
    s.phase = .idle → s.host = .issue (.transceive reqLen maxLen) :: rest →
    Host.Core.run Sys2Proof.core k s = .next t → t.phase = .failed →
    (∀ (j : Nat) (u : State), 0 < j → j < k → Host.Core.run Sys2Proof.core j s = .next u →
      inAttempt u.phase = true) →
    t.seq = s.seq ∧ t.respBuf = s.respBuf ∧ t.reqBuf = s.reqBuf ∧ ∃ n : Nat, t.linkCalls.length = s.linkCalls.length + n ∧ 0 < n

/-- A retry sends the same frame (41_session.md R86): two TRANSCEIVEs with the same request bytes and the same SEQ put byte-identical frames into
TX_BUF, whatever else differs between the two states. -/
def Obligations.RetrySendsTheSameFrame : Prop :=
  ∀ (s s' t t' : State) (reqLen k k' : Nat), BuffersWf s → BuffersWf t → s.params = t.params → s.seq = t.seq →
    readBytes s.reqBuf 0 reqLen = readBytes t.reqBuf 0 reqLen →
    exec (.transceive reqLen k) s = .next s' → exec (.transceive reqLen k') t = .next t' →
    s'.phase = .sending → t'.phase = .sending → s.phase = .idle → t.phase = .idle →
    s'.txLen = t'.txLen ∧ readBytes s'.txBuf 0 s'.txLen = readBytes t'.txBuf 0 t'.txLen
end

