-- ==== Sys2Proof/Laws/Codec.lean ====
section
/-! SUPPORT. The laws of the frame codec: what checkFrame accepts, the lengths of the frames, the PCBs. -/

namespace Sys2Proof

@[simp] theorem buildFrame_length (crc : CrcFun) (pcb : Byte) (payload : List Byte) :
    (buildFrame crc pcb payload).length = payload.length + 3 := by
  simp [buildFrame, appendCrc]

@[simp] theorem encodeIFrame_length (crc : CrcFun) (seq : Bit) (payload : List Byte) :
    (encodeIFrame crc seq payload).length = payload.length + 3 := by
  simp [encodeIFrame]

@[simp] theorem encodeWtxAckFrame_length (crc : CrcFun) (m : Byte) : (encodeWtxAckFrame crc m).length = 4 := by
  simp [encodeWtxAckFrame]

theorem iBlockPcb_zero : iBlockPcb 0 = 0x02#8 := by decide

theorem iBlockPcb_one : iBlockPcb 1 = 0x03#8 := by decide

/-- The class of the frames ENCODE_I builds (30_encoding.md R45, R46). -/
theorem classify_iBlockPcb (seq : Bit) (payload : List Byte) :
    classify (iBlockPcb seq) payload = .iBlock seq payload := by
  have h : ∀ q : Bit, pcbType (iBlockPcb q) = 0b00#2 ∧ pcbSeq (iBlockPcb q) = q := by decide
  simp [classify, h seq]

/-- The class of an S(WTX) frame (30_encoding.md R48). -/
theorem classify_wtxPcb (payload : List Byte) : classify wtxPcb payload = .sBlock true payload := by
  have h : pcbType wtxPcb = 0b11#2 ∧ isWtxPcb wtxPcb = true := by decide
  simp [classify, h]

/-- Too few bytes are TooShort, whatever they are (40_frame_codec.md R58). -/
theorem checkFrame_short {crc : CrcFun} {raw : List Byte} (h : raw.length < 3) :
    checkFrame crc raw = .error .tooShort := by
  simp [checkFrame, minFrameLen, h]

/-- The check of a PCB, a payload and two trailing bytes (40_frame_codec.md R59). -/
theorem checkFrame_append (crc : CrcFun) (pcb : Byte) (payload : List Byte) (c0 c1 : Byte) :
    checkFrame crc (pcb :: payload ++ [c0, c1]) =
      if [c0, c1] = [(crc (pcb :: payload)).1, (crc (pcb :: payload)).2] then .ok (pcb, payload)
      else .error .crcMismatch := by
  have hl : (pcb :: payload ++ [c0, c1]).length - 2 = (pcb :: payload).length := by simp
  have hb : frameBody (pcb :: payload ++ [c0, c1]) = pcb :: payload := by
    rw [frameBody, hl, List.take_left]
  have ht : frameTrailer (pcb :: payload ++ [c0, c1]) = [c0, c1] := by
    rw [frameTrailer, hl, List.drop_left]
  have hn : ¬ (pcb :: payload ++ [c0, c1]).length < minFrameLen := by simp [minFrameLen]
  rw [checkFrame, if_neg hn, hb, ht]

/-- A built frame passes the checks and gives back its PCB and payload, for any CRC function. -/
theorem checkFrame_buildFrame (crc : CrcFun) (pcb : Byte) (payload : List Byte) :
    checkFrame crc (buildFrame crc pcb payload) = .ok (pcb, payload) := by
  have := checkFrame_append crc pcb payload (crc (pcb :: payload)).1 (crc (pcb :: payload)).2
  simpa [buildFrame, appendCrc] using this

/-- A frame of at least three bytes is a PCB, a payload and two trailing bytes. -/
theorem frame_split {raw : List Byte} (h : 3 ≤ raw.length) :
    ∃ pcb payload c0 c1, raw = pcb :: payload ++ [c0, c1] := by
  obtain ⟨c1, r1, hr1⟩ : ∃ c1 r1, raw.reverse = c1 :: r1 := by
    cases hr : raw.reverse with
    | nil => simp at hr; simp [hr] at h
    | cons c1 r1 => exact ⟨c1, r1, rfl⟩
  have hl1 : r1.length + 1 = raw.length := by simpa using (congrArg List.length hr1).symm
  obtain ⟨c0, r2, hr2⟩ : ∃ c0 r2, r1 = c0 :: r2 := by
    cases r1 with
    | nil => simp at hl1; omega
    | cons c0 r2 => exact ⟨c0, r2, rfl⟩
  obtain ⟨pcb, payload, hp⟩ : ∃ pcb payload, r2.reverse = pcb :: payload := by
    cases hr : r2.reverse with
    | nil => simp at hr; simp [hr2, hr] at hl1; omega
    | cons pcb payload => exact ⟨pcb, payload, rfl⟩
  refine ⟨pcb, payload, c0, c1, ?_⟩
  have : raw = raw.reverse.reverse := by simp
  rw [this, hr1, hr2]
  simp [hp]

/-- Everything checkFrame can accept: the frame of its PCB and payload. -/
theorem checkFrame_eq_ok {crc : CrcFun} {raw payload : List Byte} {pcb : Byte}
    (h : checkFrame crc raw = .ok (pcb, payload)) : raw = buildFrame crc pcb payload := by
  by_cases hs : raw.length < 3
  · rw [checkFrame_short hs] at h; cases h
  · obtain ⟨q, pl, c0, c1, rfl⟩ := frame_split (by omega : 3 ≤ raw.length)
    rw [checkFrame_append] at h
    split at h
    · cases h
      rename_i hc
      simp [buildFrame, appendCrc, hc]
    · cases h

/-- checkFrame gives TooShort for fewer than three bytes only. -/
theorem checkFrame_tooShort {crc : CrcFun} {raw : List Byte} (h : checkFrame crc raw = .error .tooShort) :
    raw.length < 3 := by
  by_contra hs
  obtain ⟨q, pl, c0, c1, rfl⟩ := frame_split (by omega : 3 ≤ raw.length)
  rw [checkFrame_append] at h
  split at h <;> cases h

/-- Everything the receive-side decoder can accept. -/
theorem decodeRx_eq_ok {crc : CrcFun} {raw : List Byte} {i : Instr} (h : decodeRx crc raw = .ok i) :
    ∃ pcb payload, raw = buildFrame crc pcb payload ∧ i = rxInstr pcb payload := by
  unfold decodeRx at h
  split at h
  · cases h
  · rename_i pcb payload hc
    cases h
    exact ⟨pcb, payload, checkFrame_eq_ok hc, rfl⟩

/-- The receive-side decoder on a built frame. -/
theorem decodeRx_buildFrame (crc : CrcFun) (pcb : Byte) (payload : List Byte) :
    decodeRx crc (buildFrame crc pcb payload) = .ok (rxInstr pcb payload) := by
  simp [decodeRx, checkFrame_buildFrame]

/-- Everything the transmit-side decoder can accept: one of the three frames the block forms. -/
theorem decodeTx_eq_ok {crc : CrcFun} {raw : List Byte} {i : Instr} (h : decodeTx crc raw = .ok i) :
    (∃ payload, i = .iBlockTxSeq0 payload ∧ raw = encodeIFrame crc 0 payload) ∨
    (∃ payload, i = .iBlockTxSeq1 payload ∧ raw = encodeIFrame crc 1 payload) ∨
    (∃ m, i = .sWtxAckTx m ∧ raw = encodeWtxAckFrame crc m) := by
  unfold decodeTx at h
  split at h
  · cases h
  · rename_i pcb payload hc
    have hr := checkFrame_eq_ok hc
    split at h
    · rename_i hp; cases h; exact .inl ⟨payload, rfl, by rw [hr, hp]; rfl⟩
    · split at h
      · rename_i hp; cases h; exact .inr (.inl ⟨payload, rfl, by rw [hr, hp]; rfl⟩)
      · split at h
        · rename_i hp
          split at h
          · rename_i m; cases h; exact .inr (.inr ⟨m, rfl, by rw [hr, hp]; rfl⟩)
          · cases h
        · cases h

end Sys2Proof
end

