-- ==== Sys2Proof/Laws/Memory.lean ====
section
/-! SUPPORT. The laws of the buffers: a read after a write, the frame of a write, and the canonical form that every
write keeps. -/

namespace Sys2Proof.Machine

theorem memWfFrom_mono {m : Memory} {lo lo' : Nat} (h : memWfFrom lo m = true) (hle : lo' ≤ lo) :
    memWfFrom lo' m = true := by
  cases m with
  | nil => rfl
  | cons c rest =>
    simp only [memWfFrom, Bool.and_eq_true, decide_eq_true_eq] at h ⊢
    exact ⟨⟨by omega, h.1.2⟩, h.2⟩

/-- Below the first index of a canonical list nothing is listed. -/
theorem readByte_below {m : Memory} {lo a : Nat} (h : memWfFrom lo m = true) (ha : a < lo) :
    readByte m a = unwritten := by
  induction m generalizing lo with
  | nil => rfl
  | cons c rest ih =>
    simp only [memWfFrom, Bool.and_eq_true, decide_eq_true_eq] at h
    have hne : c.1 ≠ a := by omega
    simp only [readByte, hne, if_false]
    exact ih h.2 (by omega)

theorem memWfFrom_writeByte {m : Memory} {lo a : Nat} (b : Byte) (h : memWfFrom lo m = true) (ha : lo ≤ a) :
    memWfFrom lo (writeByte m a b) = true := by
  induction m generalizing lo with
  | nil =>
    by_cases hb : b = unwritten <;> simp [writeByte, memWfFrom, hb, ha]
  | cons c rest ih =>
    have h' := h
    simp only [memWfFrom, Bool.and_eq_true, decide_eq_true_eq] at h
    by_cases h1 : a < c.1
    · by_cases hb : b = unwritten
      · simp only [writeByte, h1, hb, if_true]; exact h'
      · simp only [writeByte, h1, hb, if_true, if_false, memWfFrom, Bool.and_eq_true, decide_eq_true_eq,
          bne_iff_ne, ne_eq, not_false_eq_true, and_true]
        exact ⟨ha, ⟨⟨h1, by simpa using h.1.2⟩, h.2⟩⟩
    · by_cases h2 : a = c.1
      · by_cases hb : b = unwritten
        · simp only [writeByte, h2, lt_irrefl, hb, if_true, if_false]
          exact memWfFrom_mono h.2 (by omega)
        · simp only [writeByte, h2, lt_irrefl, hb, if_true, if_false, memWfFrom, Bool.and_eq_true, decide_eq_true_eq,
            bne_iff_ne, ne_eq, not_false_eq_true, and_true]
          exact ⟨h.1.1, h.2⟩
      · simp only [writeByte, h1, h2, if_false, memWfFrom, Bool.and_eq_true, decide_eq_true_eq]
        exact ⟨h.1, ih h.2 (by omega)⟩

/-- A read of the byte just written. -/
theorem readByte_writeByte_same {m : Memory} {lo : Nat} (a : Nat) (b : Byte) (h : memWfFrom lo m = true) :
    readByte (writeByte m a b) a = b := by
  induction m generalizing lo with
  | nil =>
    by_cases hb : b = unwritten <;> simp [writeByte, readByte, hb]
  | cons c rest ih =>
    simp only [memWfFrom, Bool.and_eq_true, decide_eq_true_eq] at h
    by_cases h1 : a < c.1
    · by_cases hb : b = unwritten
      · have hne : c.1 ≠ a := by omega
        simp only [writeByte, h1, hb, if_true, readByte, hne, if_false]
        exact readByte_below h.2 (by omega)
      · simp [writeByte, h1, hb, readByte]
    · by_cases h2 : a = c.1
      · by_cases hb : b = unwritten
        · simp only [writeByte, h2, lt_irrefl, hb, if_true, if_false]
          exact readByte_below h.2 (by omega)
        · simp [writeByte, h2, hb, readByte]
      · simp only [writeByte, h1, h2, if_false, readByte, Ne.symm (show a ≠ c.1 from h2)]
        exact ih h.2

/-- A write leaves every other byte alone. -/
theorem readByte_writeByte_other {m : Memory} {a a' : Nat} (b : Byte) (hne : a' ≠ a) :
    readByte (writeByte m a b) a' = readByte m a' := by
  induction m with
  | nil =>
    by_cases hb : b = unwritten <;> simp [writeByte, readByte, hb, hne.symm]
  | cons c rest ih =>
    by_cases h1 : a < c.1
    · by_cases hb : b = unwritten <;> simp [writeByte, h1, hb, readByte, hne.symm]
    · by_cases h2 : a = c.1
      · have : c.1 ≠ a' := by omega
        by_cases hb : b = unwritten <;> simp [writeByte, h2, hb, readByte, this]
      · simp only [writeByte, h1, h2, if_false, readByte, ih]

@[simp] theorem readBytes_length (m : Memory) (a n : Nat) : (readBytes m a n).length = n := by
  induction n generalizing a with
  | zero => rfl
  | succ n ih => simp [readBytes, ih]

theorem memWfFrom_writeBytes {m : Memory} {lo a : Nat} (bs : List Byte) (h : memWfFrom lo m = true) (ha : lo ≤ a) :
    memWfFrom lo (writeBytes m a bs) = true := by
  induction bs generalizing m a with
  | nil => exact h
  | cons b bs ih => exact ih (memWfFrom_writeByte b h ha) (by omega)

/-- Every write keeps the canonical form. -/
theorem wf_writeBytes {m : Memory} (a : Nat) (bs : List Byte) (h : m.wf = true) : (writeBytes m a bs).wf = true :=
  memWfFrom_writeBytes bs h (Nat.zero_le a)

/-- A buffer of free bytes is in canonical form. -/
theorem wf_freeBuffer (cap : Nat) (byte : Nat → Byte) : (freeBuffer cap byte).wf = true := wf_writeBytes 0 _ rfl

/-- A write of a sequence leaves every byte outside it alone. -/
theorem readByte_writeBytes_other {m : Memory} {a a' : Nat} (bs : List Byte) (h : a' < a ∨ a + bs.length ≤ a') :
    readByte (writeBytes m a bs) a' = readByte m a' := by
  induction bs generalizing m a with
  | nil => rfl
  | cons b bs ih =>
    simp only [List.length_cons] at h
    simp only [writeBytes]
    rw [ih (by omega), readByte_writeByte_other b (by omega)]

/-- Two buffers that agree on a range of bytes read alike there. -/
theorem readBytes_congr {m m' : Memory} {a n : Nat} (h : ∀ i, a ≤ i → i < a + n → readByte m i = readByte m' i) :
    readBytes m a n = readBytes m' a n := by
  induction n generalizing a with
  | zero => rfl
  | succ n ih =>
    simp only [readBytes]
    rw [h a (by omega) (by omega), ih fun i h1 h2 => h i (by omega) (by omega)]

/-- A read of the sequence just written. -/
theorem readBytes_writeBytes {m : Memory} (a : Nat) (bs : List Byte) (h : m.wf = true) :
    readBytes (writeBytes m a bs) a bs.length = bs := by
  induction bs generalizing m a with
  | nil => rfl
  | cons b bs ih =>
    have h' : (writeByte m a b).wf = true := memWfFrom_writeByte b h (Nat.zero_le a)
    simp only [writeBytes, List.length_cons, readBytes]
    rw [readByte_writeBytes_other bs (Or.inl (by omega)), readByte_writeByte_same a b h, ih (a + 1) h']

/-- A shorter read is the head of a longer one. -/
theorem readBytes_take (m : Memory) (a : Nat) {k n : Nat} (h : k ≤ n) :
    readBytes m a k = (readBytes m a n).take k := by
  induction k generalizing a n with
  | zero => simp [readBytes]
  | succ k ih =>
    obtain ⟨n, rfl⟩ : ∃ j, n = j + 1 := ⟨n - 1, by omega⟩
    simp only [readBytes, List.take_succ_cons]
    rw [ih (a + 1) (show k ≤ n by omega)]

/-! ### Accesses with a bound (20_memory.md R29) -/

/-- A read from index 0 (every access of the block starts there). -/
theorem memRead_zero (cap : Nat) (m : Memory) (n : Nat) :
    memRead cap m 0 n = if n ≤ cap then some (readBytes m 0 n) else none := by
  simp [memRead]

/-- A write from index 0. -/
theorem memWrite_zero (cap : Nat) (m : Memory) (bs : List Byte) :
    memWrite cap m 0 bs = if bs.length ≤ cap then some (writeBytes m 0 bs) else none := by
  simp [memWrite]

/-- Everything a bounded write can do. -/
theorem memWrite_eq_some {cap a : Nat} {m m' : Memory} {bs : List Byte} (h : memWrite cap m a bs = some m') :
    a + bs.length ≤ cap ∧ m' = writeBytes m a bs := by
  unfold memWrite at h
  split at h
  · exact ⟨‹_›, by simpa using h.symm⟩
  · cases h

/-- Everything a bounded read can do. -/
theorem memRead_eq_some {cap a n : Nat} {m : Memory} {bs : List Byte} (h : memRead cap m a n = some bs) :
    a + n ≤ cap ∧ bs = readBytes m a n := by
  unfold memRead at h
  split at h
  · exact ⟨‹_›, by simpa using h.symm⟩
  · cases h

end Sys2Proof.Machine
end

