-- ==== Sys2Proof/Laws/State.lean ====
section
/-! SUPPORT. One lemma per field per named update of State (Machine/Ops.lean): what the update does to the field. -/

namespace Sys2Proof.Machine

/-! ### raiseFault -/

@[simp] theorem raiseFault_params (u : UsageFault) (s : State) : (raiseFault u s).params = s.params := rfl
@[simp] theorem raiseFault_seq (u : UsageFault) (s : State) : (raiseFault u s).seq = s.seq := rfl
@[simp] theorem raiseFault_phase (u : UsageFault) (s : State) : (raiseFault u s).phase = s.phase := rfl
@[simp] theorem raiseFault_wtxCnt (u : UsageFault) (s : State) : (raiseFault u s).wtxCnt = s.wtxCnt := rfl
@[simp] theorem raiseFault_txBuf (u : UsageFault) (s : State) : (raiseFault u s).txBuf = s.txBuf := rfl
@[simp] theorem raiseFault_txLen (u : UsageFault) (s : State) : (raiseFault u s).txLen = s.txLen := rfl
@[simp] theorem raiseFault_rxBuf (u : UsageFault) (s : State) : (raiseFault u s).rxBuf = s.rxBuf := rfl
@[simp] theorem raiseFault_rxBits (u : UsageFault) (s : State) : (raiseFault u s).rxBits = s.rxBits := rfl
@[simp] theorem raiseFault_rxStatus (u : UsageFault) (s : State) : (raiseFault u s).rxStatus = s.rxStatus := rfl
@[simp] theorem raiseFault_maxResp (u : UsageFault) (s : State) : (raiseFault u s).maxResp = s.maxResp := rfl
@[simp] theorem raiseFault_outcome (u : UsageFault) (s : State) : (raiseFault u s).outcome = s.outcome := rfl
@[simp] theorem raiseFault_fault (u : UsageFault) (s : State) : (raiseFault u s).fault = insertFault u s.fault := rfl
@[simp] theorem raiseFault_reqBuf (u : UsageFault) (s : State) : (raiseFault u s).reqBuf = s.reqBuf := rfl
@[simp] theorem raiseFault_respBuf (u : UsageFault) (s : State) : (raiseFault u s).respBuf = s.respBuf := rfl
@[simp] theorem raiseFault_host (u : UsageFault) (s : State) : (raiseFault u s).host = s.host := rfl
@[simp] theorem raiseFault_results (u : UsageFault) (s : State) : (raiseFault u s).results = s.results := rfl
@[simp] theorem raiseFault_linkCalls (u : UsageFault) (s : State) : (raiseFault u s).linkCalls = s.linkCalls := rfl
@[simp] theorem raiseFault_linkAnswers (u : UsageFault) (s : State) : (raiseFault u s).linkAnswers = s.linkAnswers := rfl
@[simp] theorem raiseFault_draws (u : UsageFault) (s : State) : (raiseFault u s).draws = s.draws := rfl
@[simp] theorem crcOf_raiseFault (u : UsageFault) (s : State) : crcOf (raiseFault u s) = crcOf s := rfl

/-! ### raiseFail -/

@[simp] theorem raiseFail_params (e : TransceiveError) (s : State) : (raiseFail e s).params = s.params := rfl
@[simp] theorem raiseFail_seq (e : TransceiveError) (s : State) : (raiseFail e s).seq = s.seq := rfl
@[simp] theorem raiseFail_phase (e : TransceiveError) (s : State) : (raiseFail e s).phase = .failed := rfl
@[simp] theorem raiseFail_wtxCnt (e : TransceiveError) (s : State) : (raiseFail e s).wtxCnt = s.wtxCnt := rfl
@[simp] theorem raiseFail_txBuf (e : TransceiveError) (s : State) : (raiseFail e s).txBuf = s.txBuf := rfl
@[simp] theorem raiseFail_txLen (e : TransceiveError) (s : State) : (raiseFail e s).txLen = s.txLen := rfl
@[simp] theorem raiseFail_rxBuf (e : TransceiveError) (s : State) : (raiseFail e s).rxBuf = s.rxBuf := rfl
@[simp] theorem raiseFail_rxBits (e : TransceiveError) (s : State) : (raiseFail e s).rxBits = s.rxBits := rfl
@[simp] theorem raiseFail_rxStatus (e : TransceiveError) (s : State) : (raiseFail e s).rxStatus = s.rxStatus := rfl
@[simp] theorem raiseFail_maxResp (e : TransceiveError) (s : State) : (raiseFail e s).maxResp = s.maxResp := rfl
@[simp] theorem raiseFail_outcome (e : TransceiveError) (s : State) : (raiseFail e s).outcome = some (.failed e) := rfl
@[simp] theorem raiseFail_fault (e : TransceiveError) (s : State) : (raiseFail e s).fault = s.fault := rfl
@[simp] theorem raiseFail_reqBuf (e : TransceiveError) (s : State) : (raiseFail e s).reqBuf = s.reqBuf := rfl
@[simp] theorem raiseFail_respBuf (e : TransceiveError) (s : State) : (raiseFail e s).respBuf = s.respBuf := rfl
@[simp] theorem raiseFail_host (e : TransceiveError) (s : State) : (raiseFail e s).host = s.host := rfl
@[simp] theorem raiseFail_results (e : TransceiveError) (s : State) : (raiseFail e s).results = s.results := rfl
@[simp] theorem raiseFail_linkCalls (e : TransceiveError) (s : State) : (raiseFail e s).linkCalls = s.linkCalls := rfl
@[simp] theorem raiseFail_linkAnswers (e : TransceiveError) (s : State) : (raiseFail e s).linkAnswers = s.linkAnswers := rfl
@[simp] theorem raiseFail_draws (e : TransceiveError) (s : State) : (raiseFail e s).draws = s.draws := rfl
@[simp] theorem crcOf_raiseFail (e : TransceiveError) (s : State) : crcOf (raiseFail e s) = crcOf s := rfl

/-! ### releaseAttempt -/

@[simp] theorem releaseAttempt_params (s : State) : (releaseAttempt s).params = s.params := rfl
@[simp] theorem releaseAttempt_seq (s : State) : (releaseAttempt s).seq = s.seq := rfl
@[simp] theorem releaseAttempt_phase (s : State) : (releaseAttempt s).phase = s.phase := rfl
@[simp] theorem releaseAttempt_wtxCnt (s : State) : (releaseAttempt s).wtxCnt = Config.idleWtxCnt s.draws % (wtxCap + 1) := rfl
@[simp] theorem releaseAttempt_txBuf (s : State) : (releaseAttempt s).txBuf = freeBuffer s.params.frameBufCap (Config.idleTxByte s.draws) := rfl
@[simp] theorem releaseAttempt_txLen (s : State) : (releaseAttempt s).txLen = Config.idleTxLen s.draws % (s.params.frameBufCap + 1) := rfl
@[simp] theorem releaseAttempt_rxBuf (s : State) : (releaseAttempt s).rxBuf = freeBuffer s.params.frameBufCap (Config.idleRxByte s.draws) := rfl
@[simp] theorem releaseAttempt_rxBits (s : State) : (releaseAttempt s).rxBits = Config.idleRxBits s.draws % (s.params.rxCapBits + 1) := rfl
@[simp] theorem releaseAttempt_rxStatus (s : State) : (releaseAttempt s).rxStatus = Config.idleRxStatus s.draws := rfl
@[simp] theorem releaseAttempt_maxResp (s : State) : (releaseAttempt s).maxResp = Config.idleMaxResp s.draws := rfl
@[simp] theorem releaseAttempt_outcome (s : State) : (releaseAttempt s).outcome = s.outcome := rfl
@[simp] theorem releaseAttempt_fault (s : State) : (releaseAttempt s).fault = s.fault := rfl
@[simp] theorem releaseAttempt_reqBuf (s : State) : (releaseAttempt s).reqBuf = s.reqBuf := rfl
@[simp] theorem releaseAttempt_respBuf (s : State) : (releaseAttempt s).respBuf = s.respBuf := rfl
@[simp] theorem releaseAttempt_host (s : State) : (releaseAttempt s).host = s.host := rfl
@[simp] theorem releaseAttempt_results (s : State) : (releaseAttempt s).results = s.results := rfl
@[simp] theorem releaseAttempt_linkCalls (s : State) : (releaseAttempt s).linkCalls = s.linkCalls := rfl
@[simp] theorem releaseAttempt_linkAnswers (s : State) : (releaseAttempt s).linkAnswers = s.linkAnswers := rfl
@[simp] theorem releaseAttempt_draws (s : State) : (releaseAttempt s).draws = s.draws + 1 := rfl
@[simp] theorem crcOf_releaseAttempt (s : State) : crcOf (releaseAttempt s) = crcOf s := rfl

/-! ### report -/

@[simp] theorem report_params (s : State) : (report s).params = s.params := rfl
@[simp] theorem report_seq (s : State) : (report s).seq = s.seq := rfl
@[simp] theorem report_phase (s : State) : (report s).phase = .idle := rfl
@[simp] theorem report_wtxCnt (s : State) : (report s).wtxCnt = Config.idleWtxCnt s.draws % (wtxCap + 1) := rfl
@[simp] theorem report_txBuf (s : State) : (report s).txBuf = freeBuffer s.params.frameBufCap (Config.idleTxByte s.draws) := rfl
@[simp] theorem report_txLen (s : State) : (report s).txLen = Config.idleTxLen s.draws % (s.params.frameBufCap + 1) := rfl
@[simp] theorem report_rxBuf (s : State) : (report s).rxBuf = freeBuffer s.params.frameBufCap (Config.idleRxByte s.draws) := rfl
@[simp] theorem report_rxBits (s : State) : (report s).rxBits = Config.idleRxBits s.draws % (s.params.rxCapBits + 1) := rfl
@[simp] theorem report_rxStatus (s : State) : (report s).rxStatus = Config.idleRxStatus s.draws := rfl
@[simp] theorem report_maxResp (s : State) : (report s).maxResp = Config.idleMaxResp s.draws := rfl
@[simp] theorem report_outcome (s : State) : (report s).outcome = s.outcome := rfl
@[simp] theorem report_fault (s : State) : (report s).fault = s.fault := rfl
@[simp] theorem report_reqBuf (s : State) : (report s).reqBuf = s.reqBuf := rfl
@[simp] theorem report_respBuf (s : State) : (report s).respBuf = s.respBuf := rfl
@[simp] theorem report_host (s : State) : (report s).host = s.host := rfl
@[simp] theorem report_results (s : State) : (report s).results = s.results ++ [.outcome s.outcome] := rfl
@[simp] theorem report_linkCalls (s : State) : (report s).linkCalls = s.linkCalls := rfl
@[simp] theorem report_linkAnswers (s : State) : (report s).linkAnswers = s.linkAnswers := rfl
@[simp] theorem report_draws (s : State) : (report s).draws = s.draws + 1 := rfl
@[simp] theorem crcOf_report (s : State) : crcOf (report s) = crcOf s := rfl

/-! ### present -/

@[simp] theorem present_params (r : Result) (s : State) : (present r s).params = s.params := rfl
@[simp] theorem present_seq (r : Result) (s : State) : (present r s).seq = s.seq := rfl
@[simp] theorem present_phase (r : Result) (s : State) : (present r s).phase = s.phase := rfl
@[simp] theorem present_wtxCnt (r : Result) (s : State) : (present r s).wtxCnt = s.wtxCnt := rfl
@[simp] theorem present_txBuf (r : Result) (s : State) : (present r s).txBuf = s.txBuf := rfl
@[simp] theorem present_txLen (r : Result) (s : State) : (present r s).txLen = s.txLen := rfl
@[simp] theorem present_rxBuf (r : Result) (s : State) : (present r s).rxBuf = s.rxBuf := rfl
@[simp] theorem present_rxBits (r : Result) (s : State) : (present r s).rxBits = s.rxBits := rfl
@[simp] theorem present_rxStatus (r : Result) (s : State) : (present r s).rxStatus = s.rxStatus := rfl
@[simp] theorem present_maxResp (r : Result) (s : State) : (present r s).maxResp = s.maxResp := rfl
@[simp] theorem present_outcome (r : Result) (s : State) : (present r s).outcome = s.outcome := rfl
@[simp] theorem present_fault (r : Result) (s : State) : (present r s).fault = s.fault := rfl
@[simp] theorem present_reqBuf (r : Result) (s : State) : (present r s).reqBuf = s.reqBuf := rfl
@[simp] theorem present_respBuf (r : Result) (s : State) : (present r s).respBuf = s.respBuf := rfl
@[simp] theorem present_host (r : Result) (s : State) : (present r s).host = s.host := rfl
@[simp] theorem present_results (r : Result) (s : State) : (present r s).results = s.results ++ [r] := rfl
@[simp] theorem present_linkCalls (r : Result) (s : State) : (present r s).linkCalls = s.linkCalls := rfl
@[simp] theorem present_linkAnswers (r : Result) (s : State) : (present r s).linkAnswers = s.linkAnswers := rfl
@[simp] theorem present_draws (r : Result) (s : State) : (present r s).draws = s.draws := rfl
@[simp] theorem crcOf_present (r : Result) (s : State) : crcOf (present r s) = crcOf s := rfl

/-! ### startAttempt -/

@[simp] theorem startAttempt_params (m : Memory) (n k : Nat) (s : State) : (startAttempt m n k s).params = s.params := rfl
@[simp] theorem startAttempt_seq (m : Memory) (n k : Nat) (s : State) : (startAttempt m n k s).seq = s.seq := rfl
@[simp] theorem startAttempt_phase (m : Memory) (n k : Nat) (s : State) : (startAttempt m n k s).phase = .sending := rfl
@[simp] theorem startAttempt_wtxCnt (m : Memory) (n k : Nat) (s : State) : (startAttempt m n k s).wtxCnt = 0 := rfl
@[simp] theorem startAttempt_txBuf (m : Memory) (n k : Nat) (s : State) : (startAttempt m n k s).txBuf = m := rfl
@[simp] theorem startAttempt_txLen (m : Memory) (n k : Nat) (s : State) : (startAttempt m n k s).txLen = txLenOf n := rfl
@[simp] theorem startAttempt_rxBuf (m : Memory) (n k : Nat) (s : State) : (startAttempt m n k s).rxBuf = s.rxBuf := rfl
@[simp] theorem startAttempt_rxBits (m : Memory) (n k : Nat) (s : State) : (startAttempt m n k s).rxBits = s.rxBits := rfl
@[simp] theorem startAttempt_rxStatus (m : Memory) (n k : Nat) (s : State) : (startAttempt m n k s).rxStatus = s.rxStatus := rfl
@[simp] theorem startAttempt_maxResp (m : Memory) (n k : Nat) (s : State) : (startAttempt m n k s).maxResp = k := rfl
@[simp] theorem startAttempt_outcome (m : Memory) (n k : Nat) (s : State) : (startAttempt m n k s).outcome = none := rfl
@[simp] theorem startAttempt_fault (m : Memory) (n k : Nat) (s : State) : (startAttempt m n k s).fault = s.fault := rfl
@[simp] theorem startAttempt_reqBuf (m : Memory) (n k : Nat) (s : State) : (startAttempt m n k s).reqBuf = s.reqBuf := rfl
@[simp] theorem startAttempt_respBuf (m : Memory) (n k : Nat) (s : State) : (startAttempt m n k s).respBuf = s.respBuf := rfl
@[simp] theorem startAttempt_host (m : Memory) (n k : Nat) (s : State) : (startAttempt m n k s).host = s.host := rfl
@[simp] theorem startAttempt_results (m : Memory) (n k : Nat) (s : State) : (startAttempt m n k s).results = s.results := rfl
@[simp] theorem startAttempt_linkCalls (m : Memory) (n k : Nat) (s : State) : (startAttempt m n k s).linkCalls = s.linkCalls := rfl
@[simp] theorem startAttempt_linkAnswers (m : Memory) (n k : Nat) (s : State) : (startAttempt m n k s).linkAnswers = s.linkAnswers := rfl
@[simp] theorem startAttempt_draws (m : Memory) (n k : Nat) (s : State) : (startAttempt m n k s).draws = s.draws := rfl
@[simp] theorem crcOf_startAttempt (m : Memory) (n k : Nat) (s : State) : crcOf (startAttempt m n k s) = crcOf s := rfl

/-! ### deliver -/

@[simp] theorem deliver_params (m : Memory) (n : Nat) (s : State) : (deliver m n s).params = s.params := rfl
@[simp] theorem deliver_seq (m : Memory) (n : Nat) (s : State) : (deliver m n s).seq = toggle s.seq := rfl
@[simp] theorem deliver_phase (m : Memory) (n : Nat) (s : State) : (deliver m n s).phase = .delivered := rfl
@[simp] theorem deliver_wtxCnt (m : Memory) (n : Nat) (s : State) : (deliver m n s).wtxCnt = s.wtxCnt := rfl
@[simp] theorem deliver_txBuf (m : Memory) (n : Nat) (s : State) : (deliver m n s).txBuf = s.txBuf := rfl
@[simp] theorem deliver_txLen (m : Memory) (n : Nat) (s : State) : (deliver m n s).txLen = s.txLen := rfl
@[simp] theorem deliver_rxBuf (m : Memory) (n : Nat) (s : State) : (deliver m n s).rxBuf = s.rxBuf := rfl
@[simp] theorem deliver_rxBits (m : Memory) (n : Nat) (s : State) : (deliver m n s).rxBits = s.rxBits := rfl
@[simp] theorem deliver_rxStatus (m : Memory) (n : Nat) (s : State) : (deliver m n s).rxStatus = s.rxStatus := rfl
@[simp] theorem deliver_maxResp (m : Memory) (n : Nat) (s : State) : (deliver m n s).maxResp = s.maxResp := rfl
@[simp] theorem deliver_outcome (m : Memory) (n : Nat) (s : State) : (deliver m n s).outcome = some (.delivered n) := rfl
@[simp] theorem deliver_fault (m : Memory) (n : Nat) (s : State) : (deliver m n s).fault = s.fault := rfl
@[simp] theorem deliver_reqBuf (m : Memory) (n : Nat) (s : State) : (deliver m n s).reqBuf = s.reqBuf := rfl
@[simp] theorem deliver_respBuf (m : Memory) (n : Nat) (s : State) : (deliver m n s).respBuf = m := rfl
@[simp] theorem deliver_host (m : Memory) (n : Nat) (s : State) : (deliver m n s).host = s.host := rfl
@[simp] theorem deliver_results (m : Memory) (n : Nat) (s : State) : (deliver m n s).results = s.results := rfl
@[simp] theorem deliver_linkCalls (m : Memory) (n : Nat) (s : State) : (deliver m n s).linkCalls = s.linkCalls := rfl
@[simp] theorem deliver_linkAnswers (m : Memory) (n : Nat) (s : State) : (deliver m n s).linkAnswers = s.linkAnswers := rfl
@[simp] theorem deliver_draws (m : Memory) (n : Nat) (s : State) : (deliver m n s).draws = s.draws := rfl
@[simp] theorem crcOf_deliver (m : Memory) (n : Nat) (s : State) : crcOf (deliver m n s) = crcOf s := rfl

/-! ### queueAck -/

@[simp] theorem queueAck_params (m : Memory) (s : State) : (queueAck m s).params = s.params := rfl
@[simp] theorem queueAck_seq (m : Memory) (s : State) : (queueAck m s).seq = s.seq := rfl
@[simp] theorem queueAck_phase (m : Memory) (s : State) : (queueAck m s).phase = .wtxRetry := rfl
@[simp] theorem queueAck_wtxCnt (m : Memory) (s : State) : (queueAck m s).wtxCnt = s.wtxCnt + 1 := rfl
@[simp] theorem queueAck_txBuf (m : Memory) (s : State) : (queueAck m s).txBuf = m := rfl
@[simp] theorem queueAck_txLen (m : Memory) (s : State) : (queueAck m s).txLen = ackLen := rfl
@[simp] theorem queueAck_rxBuf (m : Memory) (s : State) : (queueAck m s).rxBuf = s.rxBuf := rfl
@[simp] theorem queueAck_rxBits (m : Memory) (s : State) : (queueAck m s).rxBits = s.rxBits := rfl
@[simp] theorem queueAck_rxStatus (m : Memory) (s : State) : (queueAck m s).rxStatus = s.rxStatus := rfl
@[simp] theorem queueAck_maxResp (m : Memory) (s : State) : (queueAck m s).maxResp = s.maxResp := rfl
@[simp] theorem queueAck_outcome (m : Memory) (s : State) : (queueAck m s).outcome = s.outcome := rfl
@[simp] theorem queueAck_fault (m : Memory) (s : State) : (queueAck m s).fault = s.fault := rfl
@[simp] theorem queueAck_reqBuf (m : Memory) (s : State) : (queueAck m s).reqBuf = s.reqBuf := rfl
@[simp] theorem queueAck_respBuf (m : Memory) (s : State) : (queueAck m s).respBuf = s.respBuf := rfl
@[simp] theorem queueAck_host (m : Memory) (s : State) : (queueAck m s).host = s.host := rfl
@[simp] theorem queueAck_results (m : Memory) (s : State) : (queueAck m s).results = s.results := rfl
@[simp] theorem queueAck_linkCalls (m : Memory) (s : State) : (queueAck m s).linkCalls = s.linkCalls := rfl
@[simp] theorem queueAck_linkAnswers (m : Memory) (s : State) : (queueAck m s).linkAnswers = s.linkAnswers := rfl
@[simp] theorem queueAck_draws (m : Memory) (s : State) : (queueAck m s).draws = s.draws := rfl
@[simp] theorem crcOf_queueAck (m : Memory) (s : State) : crcOf (queueAck m s) = crcOf s := rfl

/-! ### callLink -/

@[simp] theorem callLink_params (f : List Byte) (s : State) : (callLink f s).params = s.params := rfl
@[simp] theorem callLink_seq (f : List Byte) (s : State) : (callLink f s).seq = s.seq := rfl
@[simp] theorem callLink_phase (f : List Byte) (s : State) : (callLink f s).phase = s.phase := rfl
@[simp] theorem callLink_wtxCnt (f : List Byte) (s : State) : (callLink f s).wtxCnt = s.wtxCnt := rfl
@[simp] theorem callLink_txBuf (f : List Byte) (s : State) : (callLink f s).txBuf = s.txBuf := rfl
@[simp] theorem callLink_txLen (f : List Byte) (s : State) : (callLink f s).txLen = s.txLen := rfl
@[simp] theorem callLink_rxBuf (f : List Byte) (s : State) : (callLink f s).rxBuf = s.rxBuf := rfl
@[simp] theorem callLink_rxBits (f : List Byte) (s : State) : (callLink f s).rxBits = s.rxBits := rfl
@[simp] theorem callLink_rxStatus (f : List Byte) (s : State) : (callLink f s).rxStatus = s.rxStatus := rfl
@[simp] theorem callLink_maxResp (f : List Byte) (s : State) : (callLink f s).maxResp = s.maxResp := rfl
@[simp] theorem callLink_outcome (f : List Byte) (s : State) : (callLink f s).outcome = s.outcome := rfl
@[simp] theorem callLink_fault (f : List Byte) (s : State) : (callLink f s).fault = s.fault := rfl
@[simp] theorem callLink_reqBuf (f : List Byte) (s : State) : (callLink f s).reqBuf = s.reqBuf := rfl
@[simp] theorem callLink_respBuf (f : List Byte) (s : State) : (callLink f s).respBuf = s.respBuf := rfl
@[simp] theorem callLink_host (f : List Byte) (s : State) : (callLink f s).host = s.host := rfl
@[simp] theorem callLink_results (f : List Byte) (s : State) : (callLink f s).results = s.results := rfl
@[simp] theorem callLink_linkCalls (f : List Byte) (s : State) : (callLink f s).linkCalls = s.linkCalls ++ [LinkCall.mk f (bitLength f) s.params.rxCapBits] := rfl
@[simp] theorem callLink_linkAnswers (f : List Byte) (s : State) : (callLink f s).linkAnswers = s.linkAnswers.tail := rfl
@[simp] theorem callLink_draws (f : List Byte) (s : State) : (callLink f s).draws = if s.linkAnswers = [] then s.draws + 1 else s.draws := rfl
@[simp] theorem crcOf_callLink (f : List Byte) (s : State) : crcOf (callLink f s) = crcOf s := rfl

/-! ### latchAnswer -/

@[simp] theorem latchAnswer_params (a : LinkAnswer) (m : Memory) (s : State) : (latchAnswer a m s).params = s.params := rfl
@[simp] theorem latchAnswer_seq (a : LinkAnswer) (m : Memory) (s : State) : (latchAnswer a m s).seq = s.seq := rfl
@[simp] theorem latchAnswer_phase (a : LinkAnswer) (m : Memory) (s : State) : (latchAnswer a m s).phase = .awaitingResponse := rfl
@[simp] theorem latchAnswer_wtxCnt (a : LinkAnswer) (m : Memory) (s : State) : (latchAnswer a m s).wtxCnt = s.wtxCnt := rfl
@[simp] theorem latchAnswer_txBuf (a : LinkAnswer) (m : Memory) (s : State) : (latchAnswer a m s).txBuf = s.txBuf := rfl
@[simp] theorem latchAnswer_txLen (a : LinkAnswer) (m : Memory) (s : State) : (latchAnswer a m s).txLen = s.txLen := rfl
@[simp] theorem latchAnswer_rxBuf (a : LinkAnswer) (m : Memory) (s : State) : (latchAnswer a m s).rxBuf = m := rfl
@[simp] theorem latchAnswer_rxBits (a : LinkAnswer) (m : Memory) (s : State) : (latchAnswer a m s).rxBits = a.bits := rfl
@[simp] theorem latchAnswer_rxStatus (a : LinkAnswer) (m : Memory) (s : State) : (latchAnswer a m s).rxStatus = a.status := rfl
@[simp] theorem latchAnswer_maxResp (a : LinkAnswer) (m : Memory) (s : State) : (latchAnswer a m s).maxResp = s.maxResp := rfl
@[simp] theorem latchAnswer_outcome (a : LinkAnswer) (m : Memory) (s : State) : (latchAnswer a m s).outcome = s.outcome := rfl
@[simp] theorem latchAnswer_fault (a : LinkAnswer) (m : Memory) (s : State) : (latchAnswer a m s).fault = s.fault := rfl
@[simp] theorem latchAnswer_reqBuf (a : LinkAnswer) (m : Memory) (s : State) : (latchAnswer a m s).reqBuf = s.reqBuf := rfl
@[simp] theorem latchAnswer_respBuf (a : LinkAnswer) (m : Memory) (s : State) : (latchAnswer a m s).respBuf = s.respBuf := rfl
@[simp] theorem latchAnswer_host (a : LinkAnswer) (m : Memory) (s : State) : (latchAnswer a m s).host = s.host := rfl
@[simp] theorem latchAnswer_results (a : LinkAnswer) (m : Memory) (s : State) : (latchAnswer a m s).results = s.results := rfl
@[simp] theorem latchAnswer_linkCalls (a : LinkAnswer) (m : Memory) (s : State) : (latchAnswer a m s).linkCalls = s.linkCalls := rfl
@[simp] theorem latchAnswer_linkAnswers (a : LinkAnswer) (m : Memory) (s : State) : (latchAnswer a m s).linkAnswers = s.linkAnswers := rfl
@[simp] theorem latchAnswer_draws (a : LinkAnswer) (m : Memory) (s : State) : (latchAnswer a m s).draws = s.draws := rfl
@[simp] theorem crcOf_latchAnswer (a : LinkAnswer) (m : Memory) (s : State) : crcOf (latchAnswer a m s) = crcOf s := rfl

end Sys2Proof.Machine
end

