-- ==== Sys2Proof/Laws/Step.lean ====
section
/-! SUPPORT. What a guard, a shared operation, a meaning and a step can do, each said once. -/

namespace Sys2Proof.Machine

/-! ### Tests -/

theorem requestTooLarge_true_iff (p : Params) (n : Nat) : requestTooLarge p n = true ↔ p.frameBufCap - 3 < n :=
  decide_eq_true_iff

theorem requestTooLarge_false_iff (p : Params) (n : Nat) : requestTooLarge p n = false ↔ n ≤ p.frameBufCap - 3 := by
  rw [← Bool.not_eq_true, requestTooLarge_true_iff]; omega

theorem linkOk_iff (st : LinkStatus) : linkOk st = true ↔ st = .success := by
  cases st <;> simp [linkOk]

/-! ### Guards -/

theorem live_of_live {s : State} (go : State → State) (h : s.fault = []) : live s go = .next (go s) := by
  simp [live, h]

theorem live_of_faulted {s : State} (go : State → State) (h : s.fault ≠ []) : live s go = .fault .halted := by
  simp [live, h]

/-- Everything a live guard can answer with a next state. -/
theorem live_eq_next {s t : State} {go : State → State} (h : live s go = .next t) : s.fault = [] ∧ t = go s := by
  unfold live at h
  split at h
  · exact ⟨‹_›, by simpa using h.symm⟩
  · cases h

theorem inPhase_of_phase {p : Phase} {s : State} (go : State → State) (h : s.fault = []) (hp : s.phase = p) :
    inPhase p s go = .next (go s) := by
  simp [inPhase, h, hp]

theorem inPhase_of_other {p : Phase} {s : State} (go : State → State) (h : s.fault = []) (hp : s.phase ≠ p) :
    inPhase p s go = .refused (.noTransition s.phase) := by
  simp [inPhase, h, hp]

theorem inPhase_of_faulted {p : Phase} {s : State} (go : State → State) (h : s.fault ≠ []) :
    inPhase p s go = .fault .halted := by
  simp [inPhase, h]

/-- Everything a phase guard can answer with a next state. -/
theorem inPhase_eq_next {p : Phase} {s t : State} {go : State → State} (h : inPhase p s go = .next t) :
    s.fault = [] ∧ s.phase = p ∧ t = go s := by
  unfold inPhase at h
  split at h
  · split at h
    · exact ⟨‹_›, ‹_›, by simpa using h.symm⟩
    · cases h
  · cases h

/-! ### Shared operations -/

theorem insertFault_of_empty {u : UsageFault} {fs : List UsageFault} (h : fs = []) : insertFault u fs = [u] := by
  subst h; rfl

theorem insertFault_ne_nil (u : UsageFault) (fs : List UsageFault) : insertFault u fs ≠ [] := by
  unfold insertFault
  split
  · rename_i h; rintro rfl; cases h
  · simp

/-- Everything one exchange can do: LinkContract, OutOfBounds, or the answer latched. -/
theorem exchange_cases (f : List Byte) (s : State) :
    (s.params.rxCapBits < (linkAnswer s).bits ∧ exchange f s = raiseFault .linkContract (callLink f s)) ∨
    ((linkAnswer s).bits ≤ s.params.rxCapBits ∧ s.params.frameBufCap < (linkAnswer s).bytes.length ∧
      exchange f s = raiseFault .outOfBounds (callLink f s)) ∨
    ((linkAnswer s).bits ≤ s.params.rxCapBits ∧ (linkAnswer s).bytes.length ≤ s.params.frameBufCap ∧
      exchange f s =
        latchAnswer (linkAnswer s) (writeBytes s.rxBuf 0 (linkAnswer s).bytes) (callLink f s)) := by
  by_cases h1 : s.params.rxCapBits < (linkAnswer s).bits
  · exact .inl ⟨h1, by simp [exchange, h1]⟩
  · by_cases h2 : (linkAnswer s).bytes.length ≤ s.params.frameBufCap
    · exact .inr (.inr ⟨by omega, h2, by simp [exchange, h1, memWrite_zero, h2]⟩)
    · exact .inr (.inl ⟨by omega, by omega, by simp [exchange, h1, memWrite_zero, h2]⟩)

/-- A free draw keeps the link's contract (42_interfaces.md R92, R93). -/
theorem drawnAnswer_keeps (p : Params) (n : Nat) : (drawnAnswer p.rxCapBits n).keeps p := by
  have h : Config.linkBits n % (p.rxCapBits + 1) < p.rxCapBits + 1 := Nat.mod_lt _ (by omega)
  have hc : p.rxCapBits = 8 * p.frameBufCap := rfl
  refine ⟨?_, ?_, ?_⟩
  · simp only [drawnAnswer]; omega
  · simp only [drawnAnswer, List.length_map, List.length_range, byteCountUp]; omega
  · intro _; simp [drawnAnswer]

/-- With a link that keeps its contract, the answer to the next exchange keeps it. -/
theorem linkAnswer_keeps {s : State} (h : linkKeeps s) : (linkAnswer s).keeps s.params := by
  unfold linkAnswer
  split
  · exact drawnAnswer_keeps _ _
  · rename_i a rest hl; exact h a (by simp [hl])

/-- With a link that keeps its contract, the exchange latches the answer. -/
theorem exchange_of_keeps {s : State} (f : List Byte) (h : (linkAnswer s).keeps s.params) :
    exchange f s = latchAnswer (linkAnswer s) (writeBytes s.rxBuf 0 (linkAnswer s).bytes) (callLink f s) := by
  obtain ⟨h1, h2, -⟩ := h
  rcases exchange_cases f s with ⟨h3, -⟩ | ⟨-, h3, -⟩ | ⟨-, -, h3⟩
  · omega
  · omega
  · exact h3

/-- Everything rule R75 can do. -/
theorem acceptResponse_eq (payload : List Byte) (s : State) :
    acceptResponse payload s =
      if s.maxResp < payload.length then raiseFail .responseTooLarge s
      else deliver (writeBytes s.respBuf 0 payload) payload.length s := by
  by_cases h : s.maxResp < payload.length
  · simp [acceptResponse, responseTooLarge, h]
  · simp [acceptResponse, responseTooLarge, h, memWrite_zero, Nat.le_of_not_lt h]

/-- Rule R76 on an empty payload. -/
theorem answerWtx_nil (s : State) : answerWtx [] s = raiseFail .unsupportedBlock s := rfl

/-- Rule R76 on a payload with a multiplier. -/
theorem answerWtx_cons (m : Byte) (rest : List Byte) (s : State) :
    answerWtx (m :: rest) s =
      if s.wtxCnt = wtxCap then raiseFail .wtxExceeded s
      else if 4 ≤ s.params.frameBufCap then queueAck (writeBytes s.txBuf 0 (encodeWtxAckFrame (crcOf s) m)) s
      else raiseFault .outOfBounds s := by
  by_cases h : s.wtxCnt = wtxCap
  · simp [answerWtx, wtxMultiplier, wtxSpent, h]
  · by_cases h4 : 4 ≤ s.params.frameBufCap <;>
      simp [answerWtx, wtxMultiplier, wtxSpent, h, h4, memWrite_zero]

/-- Rule R68. -/
theorem beginAttempt_eq (n k : Nat) (s : State) :
    beginAttempt n k s =
      if n + 3 ≤ s.params.frameBufCap then startAttempt (writeBytes s.txBuf 0 (requestFrame n s)) n k s
      else raiseFault .outOfBounds s := by
  have hl : (requestFrame n s).length = n + 3 := by simp [requestFrame]
  by_cases h : n + 3 ≤ s.params.frameBufCap <;> simp [beginAttempt, memWrite_zero, hl, h]

/-! ### Meanings: everything exec can answer with a next state -/

theorem exec_iBlockTxSeq0 (payload : List Byte) (s : State) :
    exec (.iBlockTxSeq0 payload) s = inPhase .sending s (transmit (encodeIFrame (crcOf s) 0 payload)) := rfl

theorem exec_iBlockTxSeq1 (payload : List Byte) (s : State) :
    exec (.iBlockTxSeq1 payload) s = inPhase .sending s (transmit (encodeIFrame (crcOf s) 1 payload)) := rfl

theorem exec_sWtxAckTx (m : Byte) (s : State) :
    exec (.sWtxAckTx m) s = inPhase .wtxRetry s (transmit (encodeWtxAckFrame (crcOf s) m)) := rfl

theorem exec_iBlockRx (flags : BitVec 5) (seq : Bit) (payload : List Byte) (s : State) :
    exec (.iBlockRx flags seq payload) s = inPhase .awaitingResponse s (acceptResponse payload) := rfl

theorem exec_unclassifiedRx (low : BitVec 6) (body : List Byte) (s : State) :
    exec (.unclassifiedRx low body) s = inPhase .awaitingResponse s (raiseFail .unsupportedBlock) := rfl

theorem exec_rBlockRx (low : BitVec 6) (body : List Byte) (s : State) :
    exec (.rBlockRx low body) s = inPhase .awaitingResponse s (raiseFail .unsupportedBlock) := rfl

theorem exec_sWtxRx (payload : List Byte) (s : State) :
    exec (.sWtxRx payload) s = inPhase .awaitingResponse s (answerWtx payload) := rfl

theorem exec_sOtherRx (low : BitVec 6) (body : List Byte) (s : State) :
    exec (.sOtherRx low body) s = inPhase .awaitingResponse s (raiseFail .unsupportedBlock) := rfl

/-- The effect of an operation of the command port on a state that is not faulted. -/
def commandEffect : Command → State → State
  | .transceive n k, s =>
    if s.phase = .idle ∧ requestTooLarge s.params n = false then beginAttempt n k s
    else noteRequestSize n (noteReentry s)
  | .resetSequence, s => if s.phase = .idle then { s with seq := 0 } else raiseFault .resetWhileBusy s
  | .encodeI q p, s =>
    if requestTooLarge s.params p.length then raiseFault .requestTooLarge s
    else present (.frame (encodeIFrame (crcOf s) q p)) s
  | .encodeWtxAck m, s => present (.frame (encodeWtxAckFrame (crcOf s) m)) s
  | .decode r, s => present (decodeResult (decodeFrame (crcOf s) r)) s

/-- Every operation of the command port is its effect behind the live guard. -/
theorem exec_command (c : Command) (s : State) : exec c.toInstr s = live s (commandEffect c) := by
  cases c <;> rfl

theorem exec_transceive (n k : Nat) (s : State) :
    exec (.transceive n k) s = live s (commandEffect (.transceive n k)) := rfl

theorem exec_resetSequence (s : State) : exec .resetSequence s = live s (commandEffect .resetSequence) := rfl

theorem exec_encodeI (q : Bit) (p : List Byte) (s : State) :
    exec (.encodeI q p) s = live s (commandEffect (.encodeI q p)) := rfl

theorem exec_encodeWtxAck (m : Byte) (s : State) :
    exec (.encodeWtxAck m) s = live s (commandEffect (.encodeWtxAck m)) := rfl

theorem exec_decode (r : List Byte) (s : State) : exec (.decode r) s = live s (commandEffect (.decode r)) := rfl

/-- The effect of a received frame that passed the checks (41_session.md R74 to R77). -/
def frameEffect (pcb : Byte) (payload : List Byte) (s : State) : State :=
  if pcbType pcb = 0b00#2 then acceptResponse payload s
  else if pcb = wtxPcb then answerWtx payload s
  else raiseFail .unsupportedBlock s

/-- A PCB that is neither 00, 01 nor 10 and passes the WTX selector is 0xF2, and 0xF2 is one (30_encoding.md R48). -/
theorem isWtxPcb_iff (pcb : Byte) :
    (pcbType pcb ≠ 0b00#2 ∧ pcbType pcb ≠ 0b01#2 ∧ pcbType pcb ≠ 0b10#2 ∧ isWtxPcb pcb = true) ↔ pcb = wtxPcb := by
  revert pcb; decide

/-- A received frame in AWAITING_RESPONSE has its effect. -/
theorem exec_rxInstr (pcb : Byte) (payload : List Byte) {s : State} (h : s.fault = [])
    (hp : s.phase = .awaitingResponse) : exec (rxInstr pcb payload) s = .next (frameEffect pcb payload s) := by
  have hw := isWtxPcb_iff pcb
  unfold rxInstr frameEffect
  split
  · exact inPhase_of_phase _ h hp
  · split
    · have : pcb ≠ wtxPcb := fun hc => (hw.2 hc).2.1 ‹_›
      rw [if_neg this]; exact inPhase_of_phase _ h hp
    · split
      · have : pcb ≠ wtxPcb := fun hc => (hw.2 hc).2.2.1 ‹_›
        rw [if_neg this]; exact inPhase_of_phase _ h hp
      · split
        · rw [if_pos (hw.1 ⟨‹_›, ‹_›, ‹_›, ‹_›⟩)]; exact inPhase_of_phase _ h hp
        · have : pcb ≠ wtxPcb := fun hc => absurd (hw.2 hc).2.2.2 ‹_›
          rw [if_neg this]; exact inPhase_of_phase _ h hp

/-! ### Steps -/

/-- The block's own effect in SENDING and WTX_RETRY: the bytes in TX_BUF are transmitted, whatever they are (41_session.md
R69, R78). -/
def sendEffect (s : State) : State :=
  if txCount s ≤ s.params.frameBufCap then exchange (readBytes s.txBuf 0 (txCount s)) s
  else raiseFault .outOfBounds s

/-- The block's own effect in AWAITING_RESPONSE (41_session.md R70 to R77). -/
def receiveEffect (s : State) : State :=
  if linkOk s.rxStatus = false then raiseFail .linkError s
  else if s.rxBits < 24 then raiseFail .frameTooShort s
  else if s.rxBits / 8 ≤ s.params.frameBufCap then
    match checkFrame (crcOf s) (readBytes s.rxBuf 0 (s.rxBits / 8)) with
    | .error e => raiseFail (failureOf e) s
    | .ok (pcb, payload) => frameEffect pcb payload s
  else raiseFault .outOfBounds s

/-- The block's own effect by phase (41_session.md R85). -/
def blockEffect (s : State) : State :=
  match s.phase with
  | .idle => s
  | .sending => sendEffect s
  | .awaitingResponse => receiveEffect s
  | .wtxRetry => sendEffect s
  | .delivered => report s
  | .failed => report s

theorem runFetched_fetchTx {s : State} (h : s.fault = []) : runFetched (fetchTx s) = .next (sendEffect s) := by
  by_cases hc : txCount s ≤ s.params.frameBufCap
  · have hr : memRead s.params.frameBufCap s.txBuf 0 (txCount s) = some (readBytes s.txBuf 0 (txCount s)) := by
      simp [memRead_zero, hc]
    have hl : (readBytes s.txBuf 0 (txCount s)).length ≤ s.params.frameBufCap := by simpa using hc
    simp only [fetchTx, hr, sendEffect, hc, if_true]
    cases hd : decodeTx (crcOf s) (readBytes s.txBuf 0 (txCount s)) with
    | error e => rfl
    | ok i =>
      by_cases hph : txPhase i = some s.phase
      · simp only [hph, if_true, runFetched]
        rcases decodeTx_eq_ok hd with ⟨p, rfl, hb⟩ | ⟨p, rfl, hb⟩ | ⟨m, rfl, hb⟩ <;>
        · simp only [txPhase, Option.some.injEq] at hph
          rw [hb] at hl ⊢
          exact (inPhase_of_phase _ h hph.symm).trans (by rw [transmit, if_pos hl])
      · simp only [hph, if_false, runFetched]
  · have hr : memRead s.params.frameBufCap s.txBuf 0 (txCount s) = none := by simp [memRead_zero, hc]
    simp only [fetchTx, hr, sendEffect, hc, if_false, runFetched]

theorem runFetched_fetchRx {s : State} (h : s.fault = []) (hp : s.phase = .awaitingResponse) :
    runFetched (fetchRx s) = .next (receiveEffect s) := by
  unfold fetchRx receiveEffect
  by_cases h1 : linkOk s.rxStatus = false
  · simp only [h1, if_true, runFetched]
  · by_cases h2 : s.rxBits < 24
    · simp [h1, h2, rxTooShort, minRxBits, runFetched]
    · by_cases h3 : s.rxBits / 8 ≤ s.params.frameBufCap
      · simp only [h1, h2, h3, rxTooShort, minRxBits, byteCount, memRead_zero, decide_false, if_true, if_false,
          Bool.false_eq_true, decodeRx]
        cases checkFrame (crcOf s) (readBytes s.rxBuf 0 (s.rxBits / 8)) with
        | error e => rfl
        | ok q => exact exec_rxInstr q.1 q.2 h hp
      · simp [h1, h2, h3, rxTooShort, minRxBits, byteCount, memRead_zero, runFetched]

theorem runFetched_blockMove {s : State} (h : s.fault = []) : runFetched (blockMove s) = .next (blockEffect s) := by
  unfold blockMove blockEffect
  cases hp : s.phase with
  | idle => rfl
  | sending => exact runFetched_fetchTx h
  | awaitingResponse => exact runFetched_fetchRx h hp
  | wtxRetry => exact runFetched_fetchTx h
  | delivered => rfl
  | failed => rfl

/-- The effect of a call that arrives outside IDLE (42_interfaces.md R97). -/
def concurrentEffect : Command → State → State
  | .transceive n k, s => commandEffect (.transceive n k) s
  | .resetSequence, s => commandEffect .resetSequence s
  | .encodeI _ _, s => raiseFault .reentry s
  | .encodeWtxAck _, s => raiseFault .reentry s
  | .decode _, s => raiseFault .reentry s

theorem runFetched_callNow (c : Command) {s : State} (h : s.fault = []) : runFetched (callNow c s) =
    .next (if s.phase = .idle then commandEffect c s else concurrentEffect c s) := by
  unfold callNow
  split
  · exact (exec_command c s).trans (live_of_live _ h)
  · cases c with
    | transceive n k => exact (exec_transceive n k s).trans (live_of_live _ h)
    | resetSequence => exact (exec_resetSequence s).trans (live_of_live _ h)
    | encodeI q p => rfl
    | encodeWtxAck m => rfl
    | decode r => rfl

/-- The effect of one step on a state that is not faulted: the caller's move if it is due, else the block's own effect. -/
def stepEffect (s : State) : State :=
  match s.host with
  | [] => blockEffect s
  | .issueNow c :: rest =>
    if s.phase = .idle then commandEffect c { s with host := rest } else concurrentEffect c { s with host := rest }
  | .issue c :: rest => if s.phase = .idle then commandEffect c { s with host := rest } else blockEffect s
  | .writeReq bs :: rest =>
    if s.phase = .idle then { s with reqBuf := writeBytes s.reqBuf 0 bs, host := rest } else blockEffect s
  | .writeResp bs :: rest =>
    if s.phase = .idle then { s with respBuf := writeBytes s.respBuf 0 bs, host := rest } else blockEffect s

/-- A step of a block that is not faulted always has a next state. -/
theorem step_of_live {s : State} (h : s.fault = []) : step s = .next (stepEffect s) := by
  have hb := runFetched_blockMove h
  unfold step fetch stepEffect callerMove
  rw [if_pos h]
  cases hh : s.host with
  | nil => exact hb
  | cons m rest =>
    cases m with
    | issueNow c => exact runFetched_callNow c (by exact h)
    | issue c =>
      by_cases hp : s.phase = .idle
      · simp only [hp, if_true]; exact (exec_command c _).trans (live_of_live _ h)
      · simp only [hp, if_false]; exact hb
    | writeReq bs =>
      by_cases hp : s.phase = .idle
      · simp only [hp, if_true]; rfl
      · simp only [hp, if_false]; exact hb
    | writeResp bs =>
      by_cases hp : s.phase = .idle
      · simp only [hp, if_true]; rfl
      · simp only [hp, if_false]; exact hb

/-- A faulted block takes no step (60_exceptions.md R102). -/
theorem step_of_faulted {s : State} (h : s.fault ≠ []) : step s = .fault .halted := by
  simp [step, fetch, h, runFetched]

/-- Everything a step can answer with a next state. -/
theorem step_eq_next {s t : State} (h : step s = .next t) : s.fault = [] ∧ t = stepEffect s := by
  by_cases hf : s.fault = []
  · rw [step_of_live hf] at h; exact ⟨hf, by simpa using h.symm⟩
  · rw [step_of_faulted hf] at h; cases h

end Sys2Proof.Machine
end

