-- ==== Sys2Proof/Laws/Cases.lean ====
section
/-! SUPPORT. What a step can do, said once as a list of cases: every claim about all steps is a case analysis over it. -/

namespace Sys2Proof.Machine

/-- Everything an operation of the command port can make of a state that is not faulted. -/
inductive CommandCase (s : State) : Command → State → Prop where
  /-- One or two usage faults are recorded, and nothing else happens. -/
  | faulted (c : Command) (fs : List UsageFault) (hfs : fs ≠ []) : CommandCase s c { s with fault := fs }
  /-- TRANSCEIVE starts an attempt (41_session.md R68). -/
  | started (n k : Nat) (hp : s.phase = .idle) (hn : n ≤ s.params.frameBufCap - 3) (hl : n + 3 ≤ s.params.frameBufCap) :
      CommandCase s (.transceive n k) (startAttempt (writeBytes s.txBuf 0 (requestFrame n s)) n k s)
  /-- RESET_SEQUENCE clears SEQ (41_session.md R87). -/
  | cleared (hp : s.phase = .idle) : CommandCase s .resetSequence { s with seq := 0 }
  /-- A codec operation presents a frame or a classification (42_interfaces.md R90). -/
  | presented (c : Command) (r : Result) (hr : ∀ o, r ≠ .outcome o) : CommandCase s c (present r s)

theorem raiseFault_eq (u : UsageFault) (s : State) : raiseFault u s = { s with fault := insertFault u s.fault } := rfl

theorem decodeResult_ne (x : Except FrameError FrameClass) (o : Option Terminal) : decodeResult x ≠ .outcome o := by
  cases x <;> simp [decodeResult]

theorem commandEffect_case (c : Command) (s : State) : CommandCase s c (commandEffect c s) := by
  cases c with
  | transceive n k =>
    simp only [commandEffect]
    split
    · rename_i h
      have hn := (requestTooLarge_false_iff s.params n).1 h.2
      rw [beginAttempt_eq]
      split
      · exact .started n k h.1 hn ‹_›
      · exact .faulted _ _ (insertFault_ne_nil _ _)
    · rename_i h
      unfold noteRequestSize noteReentry
      by_cases hp : s.phase = .idle
      · have hn : requestTooLarge s.params n = true := by simpa [hp] using h
        simp only [hp, hn, if_true]
        exact .faulted _ _ (insertFault_ne_nil _ _)
      · simp only [hp, if_false]
        split
        · exact .faulted _ (insertFault .requestTooLarge (insertFault .reentry s.fault)) (insertFault_ne_nil _ _)
        · exact .faulted _ _ (insertFault_ne_nil _ _)
  | resetSequence =>
    simp only [commandEffect]
    split
    · exact .cleared ‹_›
    · exact .faulted _ _ (insertFault_ne_nil _ _)
  | encodeI q p =>
    simp only [commandEffect]
    split
    · exact .faulted _ _ (insertFault_ne_nil _ _)
    · exact .presented _ _ (by simp)
  | encodeWtxAck m => exact .presented _ _ (by simp)
  | decode r => exact .presented _ _ (decodeResult_ne _)

/-- A call outside IDLE records a usage fault and nothing else. -/
theorem concurrentEffect_faults (c : Command) {s : State} (hp : s.phase ≠ .idle) :
    ∃ fs : List UsageFault, fs ≠ [] ∧ concurrentEffect c s = { s with fault := fs } := by
  cases c with
  | transceive n k =>
    simp only [concurrentEffect, commandEffect, hp, false_and, if_false, noteReentry, noteRequestSize]
    split
    · exact ⟨insertFault .requestTooLarge (insertFault .reentry s.fault), insertFault_ne_nil _ _, rfl⟩
    · exact ⟨insertFault .reentry s.fault, insertFault_ne_nil _ _, rfl⟩
  | resetSequence =>
    exact ⟨insertFault .resetWhileBusy s.fault, insertFault_ne_nil _ _, by
      simp only [concurrentEffect, commandEffect, hp, if_false]; rfl⟩
  | encodeI q p => exact ⟨_, insertFault_ne_nil _ _, rfl⟩
  | encodeWtxAck m => exact ⟨_, insertFault_ne_nil _ _, rfl⟩
  | decode r => exact ⟨_, insertFault_ne_nil _ _, rfl⟩

theorem concurrentEffect_case (c : Command) {s : State} (hp : s.phase ≠ .idle) :
    CommandCase s c (concurrentEffect c s) := by
  obtain ⟨fs, hfs, h⟩ := concurrentEffect_faults c hp
  rw [h]
  exact .faulted _ _ hfs

/-- Everything a step can make of a state that is not faulted. -/
inductive StepCase (s : State) : State → Prop where
  /-- The operation the caller issues, out of the caller's queue; in IDLE it has its effect. -/
  | command (c : Command) (rest : List HostMove) (t : State)
      (h : s.phase = .idle ∧ s.host = .issue c :: rest ∨ s.host = .issueNow c :: rest)
      (ht : CommandCase { s with host := rest } c t) (he : s.phase = .idle → t = commandEffect c { s with host := rest }) : StepCase s t
  | writeReq (bs : List Byte) (rest : List HostMove) (hp : s.phase = .idle) (hh : s.host = .writeReq bs :: rest) :
      StepCase s { s with reqBuf := writeBytes s.reqBuf 0 bs, host := rest }
  | writeResp (bs : List Byte) (rest : List HostMove) (hp : s.phase = .idle) (hh : s.host = .writeResp bs :: rest) :
      StepCase s { s with respBuf := writeBytes s.respBuf 0 bs, host := rest }
  /-- Nothing to do in IDLE. -/
  | waited (hp : s.phase = .idle) : StepCase s s
  /-- One exchange with the bytes of TX_BUF. -/
  | sent (hp : s.phase = .sending ∨ s.phase = .wtxRetry) (hl : txCount s ≤ s.params.frameBufCap) :
      StepCase s (exchange (readBytes s.txBuf 0 (txCount s)) s)
  | sentOutside (hp : s.phase = .sending ∨ s.phase = .wtxRetry) (hl : s.params.frameBufCap < txCount s) :
      StepCase s (raiseFault .outOfBounds s)
  /-- A check of the reception, or the class of the frame, ends the attempt. -/
  | failed (e : TransceiveError) (hp : s.phase = .awaitingResponse) : StepCase s (raiseFail e s)
  | receivedOutside (hp : s.phase = .awaitingResponse) (hl : s.params.frameBufCap < s.rxBits / 8) :
      StepCase s (raiseFault .outOfBounds s)
  | delivered (payload : List Byte) (hp : s.phase = .awaitingResponse) (hl : payload.length ≤ s.maxResp) :
      StepCase s (deliver (writeBytes s.respBuf 0 payload) payload.length s)
  | acknowledged (m : Byte) (hp : s.phase = .awaitingResponse) (hn : s.wtxCnt ≠ wtxCap) (h4 : 4 ≤ s.params.frameBufCap) :
      StepCase s (queueAck (writeBytes s.txBuf 0 (encodeWtxAckFrame (crcOf s) m)) s)
  | acknowledgedOutside (hp : s.phase = .awaitingResponse) (h4 : s.params.frameBufCap < 4) :
      StepCase s (raiseFault .outOfBounds s)
  | reported (hp : s.phase = .delivered ∨ s.phase = .failed) : StepCase s (report s)

theorem acceptResponse_case {payload : List Byte} {s : State} (hp : s.phase = .awaitingResponse) :
    StepCase s (acceptResponse payload s) := by
  rw [acceptResponse_eq]
  split
  · exact .failed _ hp
  · exact .delivered _ hp (by omega)

theorem answerWtx_case {payload : List Byte} {s : State} (hp : s.phase = .awaitingResponse) :
    StepCase s (answerWtx payload s) := by
  cases payload with
  | nil => exact .failed _ hp
  | cons m rest =>
    rw [answerWtx_cons]
    split
    · exact .failed _ hp
    · split
      · exact .acknowledged m hp ‹_› ‹_›
      · exact .acknowledgedOutside hp (by omega)

theorem frameEffect_case {pcb : Byte} {payload : List Byte} {s : State} (hp : s.phase = .awaitingResponse) :
    StepCase s (frameEffect pcb payload s) := by
  unfold frameEffect
  split
  · exact acceptResponse_case hp
  · split
    · exact answerWtx_case hp
    · exact .failed _ hp

theorem sendEffect_case {s : State} (hp : s.phase = .sending ∨ s.phase = .wtxRetry) : StepCase s (sendEffect s) := by
  unfold sendEffect
  split
  · exact .sent hp ‹_›
  · exact .sentOutside hp (by omega)

theorem receiveEffect_case {s : State} (hp : s.phase = .awaitingResponse) : StepCase s (receiveEffect s) := by
  unfold receiveEffect
  split
  · exact .failed _ hp
  · split
    · exact .failed _ hp
    · split
      · split
        · exact .failed _ hp
        · exact frameEffect_case hp
      · exact .receivedOutside hp (by omega)

theorem blockEffect_case (s : State) : StepCase s (blockEffect s) := by
  unfold blockEffect
  split
  · exact .waited ‹_›
  · exact sendEffect_case (.inl ‹_›)
  · exact receiveEffect_case ‹_›
  · exact sendEffect_case (.inr ‹_›)
  · exact .reported (.inl ‹_›)
  · exact .reported (.inr ‹_›)

theorem stepEffect_case (s : State) : StepCase s (stepEffect s) := by
  unfold stepEffect
  split
  · exact blockEffect_case s
  · split
    · exact .command _ _ _ (.inr ‹_›) (commandEffect_case _ _) fun _ => rfl
    · exact .command _ _ _ (.inr ‹_›) (concurrentEffect_case _ ‹_›) fun hp => absurd hp ‹_›
  · split
    · exact .command _ _ _ (.inl ⟨‹_›, ‹_›⟩) (commandEffect_case _ _) fun _ => rfl
    · exact blockEffect_case s
  · split
    · exact .writeReq _ _ ‹_› ‹_›
    · exact blockEffect_case s
  · split
    · exact .writeResp _ _ ‹_› ‹_›
    · exact blockEffect_case s

/-- WHAT A STEP CAN DO: a step with a next state starts from a state that is not faulted and is one of the cases. -/
theorem step_cases {s t : State} (h : step s = .next t) : s.fault = [] ∧ StepCase s t := by
  obtain ⟨hf, rfl⟩ := step_eq_next h
  exact ⟨hf, stepEffect_case s⟩

end Sys2Proof.Machine
end

