-- ==== Sys2Proof/Laws/PerInstr.lean ====
section
/-! SUPPORT. Statements made per instruction. FrameLength: the frame of a well-formed instruction is a valid frame length
that fits a frame buffer (30_encoding.md R42). -/

namespace Sys2Proof.Laws.FrameLength

/-- The frame of a well-formed instruction, where it has one, has at least 3 bytes and at most FRAME_BUF_CAP (30_encoding.md R42). -/
def Statement (i : Instr) : Prop :=
  ∀ (p : Params) (crc : CrcFun) (bytes : List Byte), p.ok → i.wellFormed p = true → encode crc i = some bytes →
    3 ≤ bytes.length ∧ bytes.length ≤ p.frameBufCap

/-- A built frame whose payload fits. -/
theorem buildFrame_fits {p : Params} {crc : CrcFun} {pcb : Byte} {payload bytes : List Byte} (hp : p.ok)
    (hw : payloadFits p payload = true) (he : some (buildFrame crc pcb payload) = some bytes) :
    3 ≤ bytes.length ∧ bytes.length ≤ p.frameBufCap := by
  cases he
  have h4 : 4 ≤ p.frameBufCap := hp
  have hf : payload.length ≤ p.frameBufCap - 3 := of_decide_eq_true hw
  rw [buildFrame_length]
  omega

theorem iBlockTxSeq0 (payload : List Byte) : Statement (.iBlockTxSeq0 payload) :=
  fun _ _ _ hp hw he => buildFrame_fits hp hw he

theorem iBlockTxSeq1 (payload : List Byte) : Statement (.iBlockTxSeq1 payload) :=
  fun _ _ _ hp hw he => buildFrame_fits hp hw he

theorem sWtxAckTx (m : Byte) : Statement (.sWtxAckTx m) := by
  intro p crc bytes hp _ he
  have hl : bytes.length = 4 := by cases he; exact encodeWtxAckFrame_length crc m
  have h4 : 4 ≤ p.frameBufCap := hp
  omega

theorem iBlockRx (flags : BitVec 5) (seq : Bit) (payload : List Byte) : Statement (.iBlockRx flags seq payload) :=
  fun _ _ _ hp hw he => buildFrame_fits hp hw he

theorem unclassifiedRx (low : BitVec 6) (body : List Byte) : Statement (.unclassifiedRx low body) :=
  fun _ _ _ hp hw he => buildFrame_fits hp hw he

theorem rBlockRx (low : BitVec 6) (body : List Byte) : Statement (.rBlockRx low body) :=
  fun _ _ _ hp hw he => buildFrame_fits hp hw he

theorem sWtxRx (payload : List Byte) : Statement (.sWtxRx payload) :=
  fun _ _ _ hp hw he => buildFrame_fits hp hw he

theorem sOtherRx (low : BitVec 6) (body : List Byte) : Statement (.sOtherRx low body) := by
  intro p crc bytes hp hw he
  have hw' : payloadFits p body = true := by
    simp only [Instr.wellFormed, Bool.and_eq_true] at hw
    exact hw.1
  exact buildFrame_fits hp hw' he

theorem transceive (reqLen maxResponseLen : Nat) : Statement (.transceive reqLen maxResponseLen) :=
  fun _ _ _ _ _ he => nomatch he

theorem resetSequence : Statement .resetSequence :=
  fun _ _ _ _ _ he => nomatch he

theorem encodeI (seq : Bit) (payload : List Byte) : Statement (.encodeI seq payload) :=
  fun _ _ _ _ _ he => nomatch he

theorem encodeWtxAck (m : Byte) : Statement (.encodeWtxAck m) :=
  fun _ _ _ _ _ he => nomatch he

theorem decode (raw : List Byte) : Statement (.decode raw) :=
  fun _ _ _ _ _ he => nomatch he

end Sys2Proof.Laws.FrameLength
end

