-- ==== Sys2Proof/Laws/Run.lean ====
section
/-! SUPPORT. Runs of the machine: the first step of a run, runs in sequence, and the busy block's step. -/

namespace Sys2Proof.Machine

/-- The run of k + 1 steps, by its first step. -/
theorem run_succ (M : Host.Core) (k : Nat) (x : M.State) : Host.Core.run M (k + 1) x =
    match M.step x with
    | .next y => Host.Core.run M k y
    | .fault r => .fault r
    | .refused r => .refused r := rfl

/-- A run of one step more starts with the step. -/
theorem run_of_step {k : Nat} {s u : State} (h : step s = .next u) :
    Host.Core.run core (k + 1) s = Host.Core.run core k u := by
  have h' : core.step s = .next u := h
  refine (run_succ core k s).trans ?_
  rw [h']

/-- A run that ends in a next state took a first step to a next state. -/
theorem run_first_step {k : Nat} {s t : State} (h : Host.Core.run core (k + 1) s = .next t) :
    ∃ u : State, step s = .next u ∧ Host.Core.run core k u = .next t := by
  by_cases hf : s.fault = []
  · exact ⟨_, step_of_live hf, by rw [← run_of_step (step_of_live hf)]; exact h⟩
  · have h' : core.step s = .fault .halted := step_of_faulted hf
    have h := (run_succ core k s).symm.trans h
    rw [h'] at h
    cases h

/-- Two runs in sequence. -/
theorem run_trans {k j : Nat} {s t u : State} (h : Host.Core.run core k s = .next t)
    (h' : Host.Core.run core j t = .next u) : Host.Core.run core (k + j) s = .next u := by
  induction k generalizing s with
  | zero => cases h; simpa using h'
  | succ k ih =>
    obtain ⟨v, hv, h⟩ := run_first_step h
    rw [show k + 1 + j = (k + j) + 1 by omega, run_of_step hv]
    exact ih h

/-- With no concurrent call waiting, a busy block makes its own step. -/
theorem step_of_busy {s : State} (hf : s.fault = []) (hn : noConcurrentCall s.host) (hp : s.phase ≠ .idle) :
    step s = .next (blockEffect s) := by
  rw [step_of_live hf]
  unfold stepEffect
  split
  · rfl
  · rename_i c rest hh
    exact absurd (by simp [hh]) (hn c)
  · rw [if_neg hp]
  · rw [if_neg hp]
  · rw [if_neg hp]

/-- A step in which no caller's move is due is the block's own. -/
theorem step_of_no_caller {s : State} (hf : s.fault = []) (hc : callerMove s = none) :
    step s = .next (blockEffect s) := by
  rw [step, fetch, if_pos hf, hc]
  exact runFetched_blockMove hf

end Sys2Proof.Machine
end

