-- ==== Sys2Proof/Tests/Slice0.lean ====
section
/-! SUPPORT. The model's own tests: ill-formed terms the checks refuse, one word of every constructor written out from the
spec's encoding, one small step per instruction with the results of spec/95_test_vectors.md, and for every statement with
hypotheses a concrete state and operands that meet them. -/

open Sys2Proof Sys2Proof.Machine

namespace Sys2Proof.Tests

/-! ### Helpers -/

/-- The next state, if the outcome is one. -/
def nextOf : Host.Outcome State Fault Refusal → Option State
  | .next s => some s
  | .fault _ => none
  | .refused _ => none

/-- A refused instruction's reason. -/
def refusalOf : Host.Outcome State Fault Refusal → Option Refusal
  | .next _ => none
  | .fault _ => none
  | .refused r => some r

/-- The error of a refused decoding. -/
def errorOf {ε α : Type} : Except ε α → Option ε
  | .ok _ => none
  | .error e => some e

/-- The block in a phase, with the vectors' eight bytes of EE in RESP_BUF. -/
def inPhaseOf (p : Phase) : State :=
  { State.reset with phase := p, respBuf := writeBytes [] 0 (List.replicate 8 0xEE), maxResp := 16 }

/-- The block with a frame in TX_BUF and the link's next answers. -/
def sendState (p : Phase) (frame : List Byte) (answers : List LinkAnswer) : State :=
  { inPhaseOf p with txBuf := writeBytes [] 0 frame, txLen := frame.length, linkAnswers := answers }

/-- The block with a reception latched. -/
def recvState (bits : Nat) (frame : List Byte) : State :=
  { inPhaseOf .awaitingResponse with rxBuf := writeBytes [] 0 frame, rxBits := bits }

/-- The block in IDLE with the caller's moves and the link's answers to come. -/
def callState (moves : List HostMove) (answers : List LinkAnswer) : State :=
  { inPhaseOf .idle with host := moves, linkAnswers := answers, reqBuf := writeBytes [] 0 [0xA2, 0x01] }

/-- A link answer of whole bytes with success. -/
def okAnswer (bytes : List Byte) : LinkAnswer :=
  { status := .success, bits := 8 * bytes.length, bytes := bytes }

/-- A link error. -/
def errAnswer (code : Nat) : LinkAnswer :=
  { status := .error code, bits := 0, bytes := [] }

/-- A payload of n equal bytes. -/
def bytesOf (n : Nat) : List Byte := List.replicate n 0x5A

/-! ### WellFormed refuses -/

theorem test_wf_iBlockTxSeq0 : (Instr.iBlockTxSeq0 (bytesOf 30)).wellFormed Params.default = false := by decide
theorem test_wf_iBlockTxSeq1 : (Instr.iBlockTxSeq1 (bytesOf 30)).wellFormed Params.default = false := by decide
theorem test_wf_iBlockRx : (Instr.iBlockRx 0 0 (bytesOf 30)).wellFormed Params.default = false := by decide
theorem test_wf_unclassifiedRx : (Instr.unclassifiedRx 2 (bytesOf 30)).wellFormed Params.default = false := by decide
theorem test_wf_rBlockRx : (Instr.rBlockRx 2 (bytesOf 30)).wellFormed Params.default = false := by decide
theorem test_wf_sWtxRx : (Instr.sWtxRx (bytesOf 30)).wellFormed Params.default = false := by decide
theorem test_wf_sOtherRx_length : (Instr.sOtherRx 2 (bytesOf 30)).wellFormed Params.default = false := by decide
theorem test_wf_sOtherRx_wtx : (Instr.sOtherRx 0x32 []).wellFormed Params.default = false := by decide
theorem test_wf_transceive : (Instr.transceive 30 0).wellFormed Params.default = false := by decide
theorem test_wf_encodeI : (Instr.encodeI 0 (bytesOf 30)).wellFormed Params.default = false := by decide
theorem test_wf_accepts : (Instr.encodeI 0 (bytesOf 29)).wellFormed Params.default = true ∧
    (Instr.sOtherRx 0x3A (bytesOf 29)).wellFormed Params.default = true := by decide

/-! ### Decoding: a frame of every constructor, from 30_encoding.md section 4 and 95_test_vectors.md sections 2.1 to 2.3 -/

/-- V-ENC-I-3: PCB 0000 0010, payload A2 01. -/
theorem test_decode_iBlockTxSeq0 : (decodeTx crcA [0x02, 0xA2, 0x01, 0x6A, 0x9D]).toOption =
    some (.iBlockTxSeq0 [0xA2, 0x01]) := by decide +kernel
/-- V-ENC-I-2: PCB 0000 0011, no payload. -/
theorem test_decode_iBlockTxSeq1 : (decodeTx crcA [0x03, 0x65, 0x63]).toOption = some (.iBlockTxSeq1 []) := by
  decide +kernel
/-- V-ENC-W-6: PCB 1111 0010, multiplier C5. -/
theorem test_decode_sWtxAckTx : (decodeTx crcA [0xF2, 0xC5, 0xB9, 0xC0]).toOption = some (.sWtxAckTx 0xC5) := by
  decide +kernel
/-- V-DEC-18: PCB 0001 0010, bits 5:1 = 01001, sequence bit 0. -/
theorem test_decode_iBlockRx : (decodeRx crcA [0x12, 0x90, 0x00, 0x64, 0x8C]).toOption =
    some (.iBlockRx 0b01001 0 [0x90, 0x00]) := by decide +kernel
/-- V-DEC-17: PCB 0100 0010, bits 5:0 = 000010. -/
theorem test_decode_unclassifiedRx : (decodeRx crcA [0x42, 0xE8, 0x30]).toOption =
    some (.unclassifiedRx 0b000010 []) := by decide +kernel
/-- V-DEC-15: PCB 1010 0010, bits 5:0 = 100010. -/
theorem test_decode_rBlockRx : (decodeRx crcA [0xA2, 0xE6, 0xD7]).toOption = some (.rBlockRx 0b100010 []) := by
  decide +kernel
/-- S19: PCB 1111 0010, payload 05 07. -/
theorem test_decode_sWtxRx : (decodeRx crcA [0xF2, 0x05, 0x07, 0x9F, 0x96]).toOption =
    some (.sWtxRx [0x05, 0x07]) := by decide +kernel
/-- V-DEC-13: PCB 1100 0010, bits 5:0 = 000010. -/
theorem test_decode_sOtherRx : (decodeRx crcA [0xC2, 0xE0, 0xB4]).toOption = some (.sOtherRx 0b000010 []) := by
  decide +kernel
/-- V-DEC-3 and V-DEC-9: refused by name. -/
theorem test_decode_refuses : errorOf (decodeRx crcA [0x02, 0xEC]) = some .tooShort ∧
    errorOf (decodeRx crcA [0x02, 0x90, 0x00, 0x09, 0xF1]) = some .crcMismatch := by decide +kernel
/-- The transmit side refuses a PCB the block does not form, and an acknowledgement of two payload bytes (V-DEC-18, S19). -/
theorem test_decode_tx_refuses :
    errorOf (decodeTx crcA [0x12, 0x90, 0x00, 0x64, 0x8C]) = some (.pcbNotTransmitted 0x12) ∧
    errorOf (decodeTx crcA [0xF2, 0x05, 0x07, 0x9F, 0x96]) = some (.ackPayload 2) := by decide +kernel
/-- The encoder on V-ENC-I-5 and V-DEC-14. -/
theorem test_encode : encode crcA (.iBlockTxSeq0 [0x00, 0xA4, 0x04, 0x00]) =
      some [0x02, 0x00, 0xA4, 0x04, 0x00, 0x08, 0x1D] ∧
    encode crcA (.sOtherRx 0x3A [0x00, 0x01]) = some [0xFA, 0x00, 0x01, 0xD3, 0x4B] := by decide +kernel
/-- Table words: the row of I_BLOCK_TX_SEQ1, and the row of R_BLOCK_RX (spec/opcode_table.json). -/
theorem test_table_word : decodeTableWord 8 0x03 = some (.iBlockTxSeq1 []) ∧
    decodeTableWord 8 0x80 = some (.rBlockRx 0 []) := by decide +kernel

/-! ### One step per instruction -/

/-- S1, exchange 1: the frame goes out and the answer is latched. -/
theorem test_iBlockTxSeq0 : (nextOf (exec (.iBlockTxSeq0 [0xA2, 0x01])
      { inPhaseOf .sending with linkAnswers := [okAnswer [0x02, 0x90, 0x00, 0xF1, 0x09]] })).map
        (fun t => (t.phase, t.rxBits, readBytes t.rxBuf 0 5, t.linkCalls)) =
    some (.awaitingResponse, 40, [0x02, 0x90, 0x00, 0xF1, 0x09],
      [{ txBytes := [0x02, 0xA2, 0x01, 0x6A, 0x9D], txBitLen := 40, rxCapBits := 256 }]) := by decide +kernel
/-- S6, exchange 1: tx 03 65 63. -/
theorem test_iBlockTxSeq1 : (nextOf (exec (.iBlockTxSeq1 [])
      { inPhaseOf .sending with linkAnswers := [okAnswer [0x02, 0xEC, 0x72]] })).map
        (fun t => (t.rxBits, t.linkCalls.map LinkCall.txBytes)) = some (24, [[0x03, 0x65, 0x63]]) := by decide +kernel
/-- V-FLT-5: an answer of 257 bits is LinkContract, and the phase stays. -/
theorem test_iBlockTxSeq1_contract : (nextOf (exec (.iBlockTxSeq1 [])
      { inPhaseOf .sending with linkAnswers := [{ status := .success, bits := 257, bytes := [] }] })).map
        (fun t => (t.fault, t.phase)) = some ([.linkContract], .sending) := by decide +kernel
/-- S17: the acknowledgement goes out and the link reports an error. -/
theorem test_sWtxAckTx : (nextOf (exec (.sWtxAckTx 0x03)
      { inPhaseOf .wtxRetry with linkAnswers := [errAnswer 7] })).map
        (fun t => (t.phase, t.rxStatus, t.linkCalls.map LinkCall.txBytes)) =
    some (.awaitingResponse, .error 7, [[0xF2, 0x03, 0x83, 0x63]]) := by decide +kernel
/-- S10: plen == MAX_RESP is delivered, SEQ toggles, the bytes beyond keep EE. -/
theorem test_iBlockRx_fits : (nextOf (exec (.iBlockRx 0b00001 0 [0x90, 0x00])
      { inPhaseOf .awaitingResponse with maxResp := 2 })).map
        (fun t => (t.outcome, t.phase, t.seq, readBytes t.respBuf 0 4)) =
    some (some (.delivered 2), .delivered, 1, [0x90, 0x00, 0xEE, 0xEE]) := by decide +kernel
/-- S9: one byte too many, RESP_BUF and SEQ unchanged. -/
theorem test_iBlockRx_too_large : (nextOf (exec (.iBlockRx 0b00001 0 [0x90, 0x00])
      { inPhaseOf .awaitingResponse with maxResp := 1 })).map
        (fun t => (t.outcome, t.phase, t.seq, readBytes t.respBuf 0 2)) =
    some (some (.failed .responseTooLarge), .failed, 0, [0xEE, 0xEE]) := by decide +kernel
/-- S14. -/
theorem test_unclassifiedRx : (nextOf (exec (.unclassifiedRx 2 []) (inPhaseOf .awaitingResponse))).map
    (fun t => (t.outcome, t.phase)) = some (some (.failed .unsupportedBlock), .failed) := by decide +kernel
/-- S12. -/
theorem test_rBlockRx : (nextOf (exec (.rBlockRx 0x22 []) (inPhaseOf .awaitingResponse))).map
    (fun t => (t.outcome, t.phase)) = some (some (.failed .unsupportedBlock), .failed) := by decide +kernel
/-- S19: the multiplier is echoed, the second payload byte ignored. -/
theorem test_sWtxRx_ack : (nextOf (exec (.sWtxRx [0x05, 0x07]) (inPhaseOf .awaitingResponse))).map
    (fun t => (t.phase, t.wtxCnt, t.txLen, readBytes t.txBuf 0 4)) =
    some (.wtxRetry, 1, 4, [0xF2, 0x05, 0xB5, 0x06]) := by decide +kernel
/-- S15: the eleventh request. -/
theorem test_sWtxRx_spent : (nextOf (exec (.sWtxRx [0x01])
      { inPhaseOf .awaitingResponse with wtxCnt := 10 })).map (fun t => (t.outcome, t.wtxCnt)) =
    some (some (.failed .wtxExceeded), 10) := by decide +kernel
/-- S13. -/
theorem test_sOtherRx : (nextOf (exec (.sOtherRx 2 []) (inPhaseOf .awaitingResponse))).map
    (fun t => (t.outcome, t.phase)) = some (some (.failed .unsupportedBlock), .failed) := by decide +kernel
/-- S22, start: SEQ 1 gives PCB 03. -/
theorem test_transceive : (nextOf (exec (.transceive 2 16) { callState [] [] with seq := 1 })).map
    (fun t => (t.phase, t.txLen, readBytes t.txBuf 0 5, t.seq)) =
    some (.sending, 5, [0x03, 0xA2, 0x01, 0xB6, 0xC7], 1) := by decide +kernel
/-- V-FLT-4 and V-FLT-1. -/
theorem test_transceive_faults : (nextOf (exec (.transceive 2 16) (inPhaseOf .wtxRetry))).map State.fault =
      some [.reentry] ∧
    (nextOf (exec (.transceive 30 16) (inPhaseOf .idle))).map State.fault = some [.requestTooLarge] := by
  decide +kernel
/-- V-RST-1. -/
theorem test_resetSequence : (nextOf (exec .resetSequence { inPhaseOf .idle with seq := 1 })).map State.seq =
    some 0 := by decide +kernel
/-- V-FLT-3. -/
theorem test_resetSequence_busy : (nextOf (exec .resetSequence { inPhaseOf .awaitingResponse with seq := 1 })).map
    (fun t => (t.seq, t.fault)) = some (1, [.resetWhileBusy]) := by decide +kernel
/-- V-ENC-I-7. -/
theorem test_encodeI : (nextOf (exec (.encodeI 1 [0x00, 0xB0, 0x00, 0x00, 0x02]) State.reset)).map State.results =
    some [.frame [0x03, 0x00, 0xB0, 0x00, 0x00, 0x02, 0x40, 0x79]] := by decide +kernel
/-- V-ENC-I-10. -/
theorem test_encodeI_too_large : (nextOf (exec (.encodeI 0 (bytesOf 30)) State.reset)).map
    (fun t => (t.results, t.fault)) = some ([], [.requestTooLarge]) := by decide +kernel
/-- V-ENC-W-5. -/
theorem test_encodeWtxAck : (nextOf (exec (.encodeWtxAck 0x00) State.reset)).map State.results =
    some [.frame [0xF2, 0x00, 0x18, 0x51]] := by decide +kernel
/-- V-DEC-12 and V-DEC-8. -/
theorem test_decode_op : (nextOf (exec (.decode [0xF2, 0x63, 0x85]) State.reset)).map State.results =
      some [.decoded (.sBlock true [])] ∧
    (nextOf (exec (.decode [0x02, 0x90, 0x00, 0xF1, 0x08]) State.reset)).map State.results =
      some [.decodeError .crcMismatch] := by decide +kernel
/-- S7: 27 bits count as three bytes. -/
theorem test_step_partial_byte : (nextOf (step (recvState 27 [0x02, 0xEC, 0x72, 0x00]))).map State.outcome =
    some (some (.delivered 0)) := by decide +kernel
/-- 42_interfaces.md R97: DECODE called during an attempt is R67's usage fault and presents nothing. -/
theorem test_step_concurrent_decode :
    (nextOf (step { recvState 24 [0x02, 0xEC, 0x72] with host := [.issueNow (.decode [0x02, 0xEC, 0x72])] })).map
      (fun t => (t.fault, t.results, t.phase)) = some ([.reentry], [], .awaitingResponse) := by decide +kernel
/-- 41_session.md R79: the outcome is reported, and TRANSCEIVE starts anew from whatever the attempt registers hold. -/
theorem test_step_report : (nextOf (step { inPhaseOf .delivered with outcome := some (.delivered 2) })).map
    (fun t => (t.phase, t.results, t.fault)) = some (.idle, [.outcome (some (.delivered 2))], []) := by decide +kernel
/-- A frame instruction outside its phase. -/
theorem test_refused : refusalOf (exec (.rBlockRx 0 []) State.reset) = some (.noTransition .idle) := by decide +kernel
/-- withFetchWord places the instruction of a table word where step runs it. -/
theorem test_withFetchWord : step (State.reset.withFetchWord 8 0x80) =
    exec (.rBlockRx 0 []) (State.reset.withFetchWord 8 0x80) := rfl

/-! ### Witnesses: for every statement with hypotheses, a state and operands that meet all of them together -/

/-- DecodeChecksLengthThenCrc: two bytes; the shortest frame with a wrong and with the right CRC (V-DEC-3, V-DEC-5). -/
theorem witness_DecodeChecksLengthThenCrc : ([0x02, 0xEC] : List Byte).length < 3 ∧
    crcA (0x03 :: []) ≠ (0x65, 0x62) ∧ crcA (0x03 :: []) = (0x65, 0x63) := by decide +kernel

/-- PcbMapOfAllValues: the first and the last PCB of every class, and the two beside 0xF2. -/
theorem witness_PcbMapOfAllValues :
    (0x00#8).toNat ≤ 0x3F ∧ (0x3F#8).toNat ≤ 0x3F ∧
    (0x40 ≤ (0x40#8).toNat ∧ (0x40#8).toNat ≤ 0x7F) ∧ (0x40 ≤ (0x7F#8).toNat ∧ (0x7F#8).toNat ≤ 0x7F) ∧
    (0x80 ≤ (0x80#8).toNat ∧ (0x80#8).toNat ≤ 0xBF) ∧ (0x80 ≤ (0xBF#8).toNat ∧ (0xBF#8).toNat ≤ 0xBF) ∧
    (0xC0 ≤ (0xC0#8).toNat ∧ 0xC0#8 ≠ 0xF2) ∧ (0xC0 ≤ (0xF1#8).toNat ∧ 0xF1#8 ≠ 0xF2) ∧
    (0xC0 ≤ (0xF3#8).toNat ∧ 0xF3#8 ≠ 0xF2) ∧ (0xC0 ≤ (0xFF#8).toNat ∧ 0xFF#8 ≠ 0xF2) := by decide

theorem witness_EncodeThenDecodeIBlock : State.reset.fault = [] ∧
    (bytesOf 29).length ≤ State.reset.params.frameBufCap - 3 := by decide

theorem witness_EncodeThenDecodeWtxAck : State.reset.fault = [] := rfl

/-- DefaultCrcDetectsEverySingleBitFlip: the last bit of each frame. -/
theorem witness_DefaultCrcDetectsEverySingleBitFlip :
    ((bytesOf 29).length + 2 < (bytesOf 29).length + 3 ∧ 7 < 8) ∧ (3 < 4 ∧ 7 < 8) := by decide

/-- CrcByteFlipDetectedForAnyCrc: the first and the last CRC byte. -/
theorem witness_CrcByteFlipDetectedForAnyCrc :
    ((bytesOf 29).length + 1 ≤ 30 ∧ 30 < (bytesOf 29).length + 3 ∧ 0 < 8) ∧
    ((bytesOf 29).length + 1 ≤ 31 ∧ 31 < (bytesOf 29).length + 3 ∧ 7 < 8) := by decide

/-- EncodedFramesDecodeBack: a frame of each side, one at the largest payload. -/
theorem witness_EncodedFramesDecodeBack :
    ((Instr.iBlockTxSeq1 (bytesOf 29)).direction = some .tx ∧
      (Instr.iBlockTxSeq1 (bytesOf 29)).wellFormed Params.default = true) ∧
    ((Instr.sOtherRx 0x3A [0x00]).direction = some .rx ∧
      (Instr.sOtherRx 0x3A [0x00]).wellFormed Params.default = true) := by decide

theorem witness_DecodedFramesEncodeBack :
    decodeInstr crcA .rx [0xB2, 0x67, 0xC7] = some (.rBlockRx 0x32 []) ∧
    decodeInstr crcA .tx [0x03, 0x65, 0x63] = some (.iBlockTxSeq1 []) := by decide +kernel

/-- EncodeIBuildsFrameOrFaults: 29 and 30 bytes. -/
theorem witness_EncodeIBuildsFrameOrFaults : State.reset.fault = [] ∧
    (bytesOf 29).length ≤ State.reset.params.frameBufCap - 3 ∧
    State.reset.params.frameBufCap - 3 < (bytesOf 30).length := by decide

theorem witness_EncodeWtxAckBuildsFrame : State.reset.fault = [] := rfl

/-- DecodePresentsItsResult: one input for each of its three clauses. -/
theorem witness_DecodePresentsItsResult : State.reset.fault = [] ∧ ([0x02, 0xEC] : List Byte).length < 3 ∧
    crcOf State.reset (0x02 :: []) ≠ (0xEC, 0x73) ∧ crcOf State.reset (0x02 :: []) = (0xEC, 0x72) := by
  decide +kernel

theorem witness_CodecOperationsAreStateless :
    (∀ n k, Command.encodeI 1 (bytesOf 29) ≠ .transceive n k) ∧ Command.encodeI 1 (bytesOf 29) ≠ .resetSequence ∧
    State.reset.params = Params.default ∧ State.reset.fault = [] :=
  ⟨fun _ _ => nofun, nofun, rfl, rfl⟩

theorem witness_TransceiveStartsAttempt : State.reset.fault = [] ∧ State.reset.phase = .idle ∧
    State.reset.params.ok ∧ State.reset.txBuf.wf = true ∧ 29 ≤ State.reset.params.frameBufCap - 3 := by decide

/-- TransceiveRecordsBrokenPreconditions: one state for each of its three clauses. -/
theorem witness_TransceiveRecordsBrokenPreconditions :
    ((inPhaseOf .sending).fault = [] ∧ (inPhaseOf .sending).phase ≠ .idle ∧
      29 ≤ (inPhaseOf .sending).params.frameBufCap - 3) ∧
    (State.reset.fault = [] ∧ State.reset.phase = .idle ∧ State.reset.params.frameBufCap - 3 < 30) ∧
    ((inPhaseOf .failed).phase ≠ .idle ∧ (inPhaseOf .failed).params.frameBufCap - 3 < 30) := by decide

theorem witness_ResetSequenceClearsSeq : State.reset.fault = [] ∧ State.reset.phase = .idle ∧
    (inPhaseOf .delivered).fault = [] ∧ (inPhaseOf .delivered).phase ≠ .idle := by decide

/-- TransmittedFrameIsOneExchange: the largest answer, a 32-byte frame of each sequence bit, and an acknowledgement. -/
theorem witness_TransmittedFrameIsOneExchange :
    (∀ p ∈ [Phase.sending, Phase.wtxRetry],
      (sendState p [] [okAnswer (bytesOf 32)]).fault = [] ∧
      (sendState p [] [okAnswer (bytesOf 32)]).rxBuf.wf = true ∧
      (linkAnswer (sendState p [] [okAnswer (bytesOf 32)])).bits ≤
        8 * (sendState p [] [okAnswer (bytesOf 32)]).params.frameBufCap ∧
      (linkAnswer (sendState p [] [okAnswer (bytesOf 32)])).bytes.length ≤
        (sendState p [] [okAnswer (bytesOf 32)]).params.frameBufCap ∧
      (sendState p [] [okAnswer (bytesOf 32)]).phase = p) ∧
    (∀ b ∈ [0x02#8, 0x03#8], (b :: bytesOf 29 ++ [(crcA (b :: bytesOf 29)).1, (crcA (b :: bytesOf 29)).2]).length ≤
      State.reset.params.frameBufCap) ∧
    ([0xF2, 0x3B, 0x48, 0xDE] : List Byte).length ≤ State.reset.params.frameBufCap := by decide +kernel

/-- FrameLongerThanTxBufIsOutOfBounds: one byte too many, and an acknowledgement in a block of three bytes. -/
theorem witness_FrameLongerThanTxBufIsOutOfBounds :
    ((inPhaseOf .sending).fault = [] ∧ (inPhaseOf .sending).phase = .sending ∧
      (inPhaseOf .sending).params.frameBufCap < (bytesOf 30).length + 3) ∧
    (({ inPhaseOf .wtxRetry with params := Params.mk 3 .crcA } : State).fault = [] ∧
      ({ inPhaseOf .wtxRetry with params := Params.mk 3 .crcA } : State).phase = .wtxRetry ∧
      ({ inPhaseOf .wtxRetry with params := Params.mk 3 .crcA } : State).params.frameBufCap < 4) := by decide +kernel

theorem witness_FreeDrawKeepsLinkContract : State.reset.linkAnswers = [] := rfl

/-- LinkContractBreachIsRecorded: 257 bits, and 33 bytes, in either phase. -/
theorem witness_LinkContractBreachIsRecorded :
    ∀ p ∈ [Phase.sending, Phase.wtxRetry],
      ∀ a ∈ [LinkAnswer.mk .success 257 [], LinkAnswer.mk .success 256 (bytesOf 33)],
      (sendState p (bytesOf 32) [a]).fault = [] ∧
      ((sendState p (bytesOf 32) [a]).phase = .sending ∨ (sendState p (bytesOf 32) [a]).phase = .wtxRetry) ∧
      callerMove (sendState p (bytesOf 32) [a]) = none ∧
      txCount (sendState p (bytesOf 32) [a]) ≤ (sendState p (bytesOf 32) [a]).params.frameBufCap ∧
      (8 * (sendState p (bytesOf 32) [a]).params.frameBufCap < (linkAnswer (sendState p (bytesOf 32) [a])).bits ∨
       ((linkAnswer (sendState p (bytesOf 32) [a])).bits ≤ 8 * (sendState p (bytesOf 32) [a]).params.frameBufCap ∧
        (sendState p (bytesOf 32) [a]).params.frameBufCap <
          (linkAnswer (sendState p (bytesOf 32) [a])).bytes.length)) := by decide +kernel

/-- OutOfBoundsAccessIsRecorded: 33 bytes to send, 33 bytes received. -/
theorem witness_OutOfBoundsAccessIsRecorded :
    ((sendState .sending (bytesOf 33) []).fault = [] ∧ callerMove (sendState .sending (bytesOf 33) []) = none ∧
      (sendState .sending (bytesOf 33) []).phase = .sending ∧
      (sendState .sending (bytesOf 33) []).params.frameBufCap < (sendState .sending (bytesOf 33) []).txLen) ∧
    ((recvState 264 []).fault = [] ∧ callerMove (recvState 264 []) = none ∧
      (recvState 264 []).phase = .awaitingResponse ∧ (recvState 264 []).rxStatus = .success ∧
      24 ≤ (recvState 264 []).rxBits ∧ (recvState 264 []).params.frameBufCap < (recvState 264 []).rxBits / 8) := by
  decide +kernel

/-- IBlockIsDelivered: a payload of exactly MAX_RESP bytes, and an empty one. -/
theorem witness_IBlockIsDelivered : (inPhaseOf .awaitingResponse).fault = [] ∧
    (inPhaseOf .awaitingResponse).phase = .awaitingResponse ∧ (inPhaseOf .awaitingResponse).respBuf.wf = true ∧
    (bytesOf 16).length ≤ (inPhaseOf .awaitingResponse).maxResp ∧
    ([] : List Byte).length ≤ (inPhaseOf .awaitingResponse).maxResp := by decide +kernel

/-- IBlockTooLargeFails: one byte more than MAX_RESP. -/
theorem witness_IBlockTooLargeFails : (inPhaseOf .awaitingResponse).fault = [] ∧
    (inPhaseOf .awaitingResponse).phase = .awaitingResponse ∧
    (inPhaseOf .awaitingResponse).maxResp < (bytesOf 17).length := by decide +kernel

/-- WtxRequestIsAcknowledged: the tenth request. -/
theorem witness_WtxRequestIsAcknowledged :
    ({ inPhaseOf .awaitingResponse with wtxCnt := 9 } : State).fault = [] ∧
    ({ inPhaseOf .awaitingResponse with wtxCnt := 9 } : State).phase = .awaitingResponse ∧
    ({ inPhaseOf .awaitingResponse with wtxCnt := 9 } : State).params.ok ∧
    ({ inPhaseOf .awaitingResponse with wtxCnt := 9 } : State).txBuf.wf = true ∧
    ({ inPhaseOf .awaitingResponse with wtxCnt := 9 } : State).wtxCnt ≠ 10 := by decide +kernel

/-- WtxRequestIsRefused: the eleventh request; its first clause needs no more than the phase. -/
theorem witness_WtxRequestIsRefused :
    ({ inPhaseOf .awaitingResponse with wtxCnt := 10 } : State).fault = [] ∧
    ({ inPhaseOf .awaitingResponse with wtxCnt := 10 } : State).phase = .awaitingResponse ∧
    ({ inPhaseOf .awaitingResponse with wtxCnt := 10 } : State).wtxCnt = 10 := by decide +kernel

theorem witness_UnsupportedBlocksFail : (inPhaseOf .awaitingResponse).fault = [] ∧
    (inPhaseOf .awaitingResponse).phase = .awaitingResponse ∧
    (∀ i ∈ [Instr.unclassifiedRx 2 [], Instr.rBlockRx 2 [], Instr.sOtherRx 2 []],
      i = .unclassifiedRx 2 [] ∨ i = .rBlockRx 2 [] ∨ i = .sOtherRx 2 []) := by decide +kernel

/-- FrameOutsideItsPhaseIsRefused: a received frame in IDLE, an acknowledgement in SENDING, an I-block in WTX_RETRY. -/
theorem witness_FrameOutsideItsPhaseIsRefused :
    (State.reset.fault = [] ∧ (Instr.rBlockRx 0 []).direction = some .rx ∧ State.reset.phase ≠ .awaitingResponse) ∧
    ((inPhaseOf .sending).fault = [] ∧ (Instr.sWtxAckTx 1).direction = some .tx ∧
      txPhase (.sWtxAckTx 1) ≠ some (inPhaseOf .sending).phase) ∧
    ((inPhaseOf .wtxRetry).fault = [] ∧ (Instr.iBlockTxSeq0 []).direction = some .tx ∧
      txPhase (.iBlockTxSeq0 []) ≠ some (inPhaseOf .wtxRetry).phase) := by decide +kernel

/-- StepRunsTheDecodedInstruction, the caller's clauses. -/
theorem witness_StepRunsTheDecodedInstruction_caller :
    ((callState [.issue .resetSequence] []).fault = [] ∧
      (callState [.issue .resetSequence] []).host = .issue .resetSequence :: [] ∧
      (callState [.issue .resetSequence] []).phase = .idle) ∧
    (({ inPhaseOf .sending with host := [.issueNow .resetSequence] } : State).fault = [] ∧
      ({ inPhaseOf .sending with host := [.issueNow .resetSequence] } : State).host =
        .issueNow .resetSequence :: [] ∧
      (({ inPhaseOf .sending with host := [.issueNow .resetSequence] } : State).phase = .idle ∨
        Command.resetSequence = .resetSequence)) ∧
    ((callState [.issueNow (.decode [])] []).fault = [] ∧
      (callState [.issueNow (.decode [])] []).host = .issueNow (.decode []) :: [] ∧
      (callState [.issueNow (.decode [])] []).phase = .idle) := by decide +kernel

/-- StepRunsTheDecodedInstruction, the frames: V-ENC-I-2, V-ENC-W-1, V-DEC-16. -/
theorem witness_StepRunsTheDecodedInstruction_frames :
    ((sendState .sending [0x03, 0x65, 0x63] []).fault = [] ∧
      callerMove (sendState .sending [0x03, 0x65, 0x63] []) = none ∧
      (sendState .sending [0x03, 0x65, 0x63] []).phase = .sending ∧
      (sendState .sending [0x03, 0x65, 0x63] []).txLen ≤
        (sendState .sending [0x03, 0x65, 0x63] []).params.frameBufCap ∧
      (decodeTx (crcOf (sendState .sending [0x03, 0x65, 0x63] []))
        (readBytes (sendState .sending [0x03, 0x65, 0x63] []).txBuf 0
          (sendState .sending [0x03, 0x65, 0x63] []).txLen)).toOption = some (.iBlockTxSeq1 []) ∧
      txPhase (.iBlockTxSeq1 []) = some .sending) ∧
    ((sendState .wtxRetry [0xF2, 0x03, 0x83, 0x63] []).fault = [] ∧
      callerMove (sendState .wtxRetry [0xF2, 0x03, 0x83, 0x63] []) = none ∧
      (sendState .wtxRetry [0xF2, 0x03, 0x83, 0x63] []).phase = .wtxRetry ∧
      (sendState .wtxRetry [0xF2, 0x03, 0x83, 0x63] []).params.ok ∧
      (decodeTx (crcOf (sendState .wtxRetry [0xF2, 0x03, 0x83, 0x63] []))
        (readBytes (sendState .wtxRetry [0xF2, 0x03, 0x83, 0x63] []).txBuf 0 4)).toOption = some (.sWtxAckTx 0x03) ∧
      txPhase (.sWtxAckTx 0x03) = some .wtxRetry) ∧
    ((recvState 24 [0xB2, 0x67, 0xC7]).fault = [] ∧ callerMove (recvState 24 [0xB2, 0x67, 0xC7]) = none ∧
      (recvState 24 [0xB2, 0x67, 0xC7]).phase = .awaitingResponse ∧
      (recvState 24 [0xB2, 0x67, 0xC7]).rxStatus = .success ∧ 24 ≤ (recvState 24 [0xB2, 0x67, 0xC7]).rxBits ∧
      (recvState 24 [0xB2, 0x67, 0xC7]).rxBits / 8 ≤ (recvState 24 [0xB2, 0x67, 0xC7]).params.frameBufCap ∧
      (decodeRx (crcOf (recvState 24 [0xB2, 0x67, 0xC7])) (readBytes (recvState 24 [0xB2, 0x67, 0xC7]).rxBuf 0
        ((recvState 24 [0xB2, 0x67, 0xC7]).rxBits / 8))).toOption = some (.rBlockRx 0x32 [])) := by decide +kernel

/-- ConcurrentCallIsAUsageFault: every operation, TRANSCEIVE at 29 and at 30 bytes, ENCODE_I at 0 and at 30, in a phase of an attempt. -/
theorem witness_ConcurrentCallIsAUsageFault :
    ∀ c ∈ [Command.transceive 29 0, .transceive 30 0, .resetSequence, .encodeI 0 [],
        .encodeI 0 (bytesOf 30), .encodeWtxAck 1, .decode []],
      ({ inPhaseOf .wtxRetry with host := [.issueNow c] } : State).fault = [] ∧
      ({ inPhaseOf .wtxRetry with host := [.issueNow c] } : State).phase ≠ .idle ∧
      ({ inPhaseOf .wtxRetry with host := [.issueNow c] } : State).host = .issueNow c :: [] := by decide +kernel

/-- StepTransmitsWhatStandsInTxBuf: 32 bytes that are no frame, and an acknowledgement. -/
theorem witness_StepTransmitsWhatStandsInTxBuf :
    ((sendState .sending (bytesOf 32) []).fault = [] ∧ callerMove (sendState .sending (bytesOf 32) []) = none ∧
      (sendState .sending (bytesOf 32) []).phase = .sending ∧ 32 = (sendState .sending (bytesOf 32) []).txLen ∧
      32 ≤ (sendState .sending (bytesOf 32) []).params.frameBufCap ∧
      ∃ t, step (sendState .sending (bytesOf 32) []) = .next t) ∧
    ((sendState .wtxRetry [0xF2, 0x03, 0x83, 0x63] []).phase = .wtxRetry ∧
      4 ≤ (sendState .wtxRetry [0xF2, 0x03, 0x83, 0x63] []).params.frameBufCap ∧
      ∃ t, step (sendState .wtxRetry [0xF2, 0x03, 0x83, 0x63] []) = .next t) :=
  ⟨⟨rfl, rfl, rfl, rfl, by decide, _, step_of_live rfl⟩, rfl, by decide, _, step_of_live rfl⟩

/-- LinkErrorEndsAttempt: an error code, and 32 bytes that it makes worthless. -/
theorem witness_LinkErrorEndsAttempt :
    ({ recvState 256 [] with rxStatus := .error 7 } : State).fault = [] ∧
    callerMove { recvState 256 [] with rxStatus := .error 7 } = none ∧
    ({ recvState 256 [] with rxStatus := .error 7 } : State).phase = .awaitingResponse ∧
    ({ recvState 256 [] with rxStatus := .error 7 } : State).rxStatus = .error 7 := by decide +kernel

/-- ShortReceptionEndsAttempt: 23 bits (S5). -/
theorem witness_ShortReceptionEndsAttempt : (recvState 23 []).fault = [] ∧ callerMove (recvState 23 []) = none ∧
    (recvState 23 []).phase = .awaitingResponse ∧ (recvState 23 []).rxStatus = .success ∧
    (recvState 23 []).rxBits < 24 := by decide +kernel

/-- ReceptionIsDecidedInOrder: one reception for every branch: a wrong CRC (S23), an I-block (S6) whose payload fits, the same
with a payload too large (S9), a WTX request, an empty one (S18), an R-block (S12). -/
theorem witness_ReceptionIsDecidedInOrder :
    ∀ q ∈ [((0xA2#8, 0x00#8, 0x00#8), ([] : List Byte)), ((0x02, 0xEC, 0x72), []), ((0x02, 0xF1, 0x09), [0x90, 0x00]),
        ((0xF2, 0x83, 0x63), [0x03]), ((0xF2, 0x63, 0x85), []), ((0xA2, 0xE6, 0xD7), [])],
      (recvState (8 * (q.2.length + 3)) (q.1.1 :: q.2 ++ [q.1.2.1, q.1.2.2])).fault = [] ∧
      callerMove (recvState (8 * (q.2.length + 3)) (q.1.1 :: q.2 ++ [q.1.2.1, q.1.2.2])) = none ∧
      (recvState (8 * (q.2.length + 3)) (q.1.1 :: q.2 ++ [q.1.2.1, q.1.2.2])).phase = .awaitingResponse ∧
      (recvState (8 * (q.2.length + 3)) (q.1.1 :: q.2 ++ [q.1.2.1, q.1.2.2])).rxStatus = .success ∧
      24 ≤ (recvState (8 * (q.2.length + 3)) (q.1.1 :: q.2 ++ [q.1.2.1, q.1.2.2])).rxBits ∧
      (recvState (8 * (q.2.length + 3)) (q.1.1 :: q.2 ++ [q.1.2.1, q.1.2.2])).params.ok ∧
      (recvState (8 * (q.2.length + 3)) (q.1.1 :: q.2 ++ [q.1.2.1, q.1.2.2])).rxBits / 8 ≤
        (recvState (8 * (q.2.length + 3)) (q.1.1 :: q.2 ++ [q.1.2.1, q.1.2.2])).params.frameBufCap ∧
      readBytes (recvState (8 * (q.2.length + 3)) (q.1.1 :: q.2 ++ [q.1.2.1, q.1.2.2])).rxBuf 0
          ((recvState (8 * (q.2.length + 3)) (q.1.1 :: q.2 ++ [q.1.2.1, q.1.2.2])).rxBits / 8) =
        q.1.1 :: q.2 ++ [q.1.2.1, q.1.2.2] := by decide +kernel

theorem witness_TerminalPhaseReportsAndReturns :
    ∀ p ∈ [Phase.delivered, Phase.failed], (inPhaseOf p).fault = [] ∧ callerMove (inPhaseOf p) = none ∧
      ((inPhaseOf p).phase = .delivered ∨ (inPhaseOf p).phase = .failed) := by decide +kernel

/-- IdleWaitsForTheCaller: a state for each of its three clauses. -/
theorem witness_IdleWaitsForTheCaller :
    ∀ h ∈ [[], [HostMove.writeReq (bytesOf 29)], [HostMove.writeResp (bytesOf 8)]],
      (callState h []).fault = [] ∧ (callState h []).phase = .idle ∧ (callState h []).reqBuf.wf = true ∧
      (callState h []).respBuf.wf = true ∧ (callState h []).host = h := by decide +kernel

theorem witness_OnlyAFaultedBlockStops :
    ({ State.reset with fault := [.reentry] } : State).fault ≠ [] ∧ State.reset.fault = [] := by decide

/-- InvariantHoldsAtReset: the smallest capacity. -/
theorem witness_InvariantHoldsAtReset : (Params.mk 4 .external).ok := by decide

/-- A state in the middle of an attempt meets the invariant. -/
theorem stateInv_awaiting : StateInv (recvState 40 [0x02, 0x90, 0x00, 0xF1, 0x09]) where
  params := by decide
  buffers := by constructor <;> decide +kernel
  wtxBound := fun _ => by decide
  noOutcome := fun _ => rfl
  deliveredOutcome := nofun
  failedOutcome := nofun
  sendingFrame := nofun
  retryFrame := nofun
  rxBound := fun _ => by decide

/-- A delivery from a state that meets the invariant. -/
theorem witness_EveryStepKeepsTheInvariant : StateInv (recvState 40 [0x02, 0x90, 0x00, 0xF1, 0x09]) ∧
    ∃ t, step (recvState 40 [0x02, 0x90, 0x00, 0xF1, 0x09]) = .next t ∧ t.phase = .delivered :=
  ⟨stateInv_awaiting, _, step_of_live rfl, by decide +kernel⟩

theorem witness_EveryStepKeepsBuffersCanonical : BuffersWf (recvState 40 [0x02, 0x90, 0x00, 0xF1, 0x09]) ∧
    ∃ t, step (recvState 40 [0x02, 0x90, 0x00, 0xF1, 0x09]) = .next t :=
  ⟨stateInv_awaiting.buffers, _, step_of_live rfl⟩

/-- SeqHasTwoWriters: a delivery, a RESET_SEQUENCE, and a step that leaves SEQ. -/
theorem witness_SeqHasTwoWriters :
    (∃ t, step (recvState 40 [0x02, 0x90, 0x00, 0xF1, 0x09]) = .next t ∧ t.seq = 1) ∧
    (∃ t, step { callState [.issue .resetSequence] [] with seq := 1 } = .next t ∧ t.seq = 0) ∧
    (∃ t, step { recvState 23 [] with seq := 1 } = .next t ∧ t.seq = 1) :=
  ⟨⟨_, step_of_live rfl, by decide +kernel⟩, ⟨_, step_of_live rfl, by decide +kernel⟩,
    ⟨_, step_of_live rfl, by decide +kernel⟩⟩

/-- OnlyTransceiveReadsSeq: an I-block delivered, RESET_SEQUENCE, an R-block. -/
theorem witness_OnlyTransceiveReadsSeq :
    (∀ i ∈ [Instr.iBlockRx 1 0 [], .resetSequence, .rBlockRx 0 []], ∀ n k, i ≠ .transceive n k) ∧
    (∃ t, exec (.iBlockRx 1 0 []) (inPhaseOf .awaitingResponse) = .next t ∧ t.phase = .delivered) ∧
    (∃ t, exec .resetSequence State.reset = .next t) ∧
    (∃ t, exec (.rBlockRx 0 []) (inPhaseOf .awaitingResponse) = .next t) := by
  refine ⟨?_, ⟨_, (exec_iBlockRx _ _ _ _).trans (inPhase_of_phase _ rfl rfl), by decide +kernel⟩,
    ⟨_, (exec_resetSequence _).trans (live_of_live _ rfl)⟩,
    ⟨_, (exec_rBlockRx _ _ _).trans (inPhase_of_phase _ rfl rfl)⟩⟩
  intro i hi n k
  simp only [List.mem_cons, List.not_mem_nil, or_false] at hi
  rcases hi with rfl | rfl | rfl <;> nofun

/-- RespBufHasOneWriter: a delivery, the caller's write, and a failure. -/
theorem witness_RespBufHasOneWriter :
    (∃ t, step (recvState 40 [0x02, 0x90, 0x00, 0xF1, 0x09]) = .next t ∧ readBytes t.respBuf 0 2 = [0x90, 0x00]) ∧
    (∃ t, step (callState [.writeResp [0x11]] []) = .next t ∧ readBytes t.respBuf 0 1 = [0x11]) ∧
    (∃ t, step (recvState 23 []) = .next t ∧ readBytes t.respBuf 0 1 = [0xEE]) :=
  ⟨⟨_, step_of_live rfl, by decide +kernel⟩, ⟨_, step_of_live rfl, by decide +kernel⟩,
    ⟨_, step_of_live rfl, by decide +kernel⟩⟩

theorem witness_ReqBufIsReadByTransceiveOnly :
    (∃ t, exec (.encodeWtxAck 3) State.reset = .next t) ∧ (∀ n k, Instr.encodeWtxAck 3 ≠ .transceive n k) :=
  ⟨⟨_, (exec_encodeWtxAck _ _).trans (live_of_live _ rfl)⟩, fun _ _ => nofun⟩

/-- PhaseTakesListedEdgesOnly: a step that records a fault, and steps that take an edge. -/
theorem witness_PhaseTakesListedEdgesOnly :
    (∃ t, step (recvState 264 []) = .next t ∧ t.fault ≠ []) ∧
    (∃ t, step (recvState 23 []) = .next t ∧ t.fault = [] ∧ t.phase = .failed) :=
  ⟨⟨_, step_of_live rfl, by decide +kernel⟩, ⟨_, step_of_live rfl, by decide +kernel, by decide +kernel⟩⟩

/-- LinkIsCalledInTwoPhasesOnly: a step that calls the link, and one that does not. -/
theorem witness_LinkIsCalledInTwoPhasesOnly :
    (∃ t, step (sendState .sending [0x03, 0x65, 0x63] [errAnswer 1]) = .next t ∧ t.linkCalls.length = 1) ∧
    (∃ t, step (recvState 23 []) = .next t ∧ t.linkCalls.length = 0) :=
  ⟨⟨_, step_of_live rfl, by decide +kernel⟩, ⟨_, step_of_live rfl, by decide +kernel⟩⟩

/-- An acknowledgement in TX_BUF, in its phase, meets the invariant. -/
theorem stateInv_retry : StateInv { sendState .wtxRetry [0xF2, 0x03, 0x83, 0x63] [errAnswer 1] with wtxCnt := 1 } where
  params := by decide
  buffers := by constructor <;> decide +kernel
  wtxBound := fun _ => by decide
  noOutcome := fun _ => rfl
  deliveredOutcome := nofun
  failedOutcome := nofun
  sendingFrame := nofun
  retryFrame := fun _ => ⟨rfl, by decide, 0x03, by decide +kernel⟩
  rxBound := nofun

/-- The I-block of SEQ 1 in TX_BUF, in its phase, meets the invariant. -/
theorem stateInv_sending : StateInv { sendState .sending [0x03, 0x65, 0x63] [errAnswer 1] with seq := 1 } where
  params := by decide
  buffers := by constructor <;> decide +kernel
  wtxBound := fun _ => by decide
  noOutcome := fun _ => rfl
  deliveredOutcome := nofun
  failedOutcome := nofun
  sendingFrame := fun _ => ⟨[], by decide, rfl, by decide +kernel⟩
  retryFrame := nofun
  rxBound := nofun

/-- TransmittedPcbIsTheBlocksOwn: an I-block, an acknowledgement, and a step that transmits nothing. -/
theorem witness_TransmittedPcbIsTheBlocksOwn :
    (StateInv { sendState .sending [0x03, 0x65, 0x63] [errAnswer 1] with seq := 1 } ∧
      ∃ t, step { sendState .sending [0x03, 0x65, 0x63] [errAnswer 1] with seq := 1 } = .next t ∧
        t.linkCalls.length = 1) ∧
    (StateInv { sendState .wtxRetry [0xF2, 0x03, 0x83, 0x63] [errAnswer 1] with wtxCnt := 1 } ∧
      ∃ t, step { sendState .wtxRetry [0xF2, 0x03, 0x83, 0x63] [errAnswer 1] with wtxCnt := 1 } = .next t ∧
        t.linkCalls.length = 1) ∧
    (StateInv (recvState 40 [0x02, 0x90, 0x00, 0xF1, 0x09]) ∧
      ∃ t, step (recvState 40 [0x02, 0x90, 0x00, 0xF1, 0x09]) = .next t ∧ t.linkCalls.length = 0) :=
  ⟨⟨stateInv_sending, _, step_of_live rfl, by decide +kernel⟩,
    ⟨stateInv_retry, _, step_of_live rfl, by decide +kernel⟩,
    ⟨stateInv_awaiting, _, step_of_live rfl, by decide +kernel⟩⟩

/-- FailureSavesTheOutcomeOnly: a short reception, and a request of the largest size after it. -/
theorem witness_FailureSavesTheOutcomeOnly :
    ∃ t, step (recvState 23 []) = .next t ∧ (recvState 23 []).phase ≠ .failed ∧ t.phase = .failed ∧
      callerMove t = none ∧ t.params.ok ∧ 29 ≤ t.params.frameBufCap - 3 :=
  ⟨_, step_of_live rfl, by decide +kernel, by decide +kernel, by decide +kernel, by decide +kernel,
    by decide +kernel⟩

theorem witness_LinkErrorCodeIsNotObserved :
    ({ recvState 0 [] with rxStatus := .error 1 } : State).rxStatus = .error 1 ∧
    ∃ t, step { recvState 0 [] with rxStatus := .error 1 } = .next t ∧ t.phase = .failed :=
  ⟨rfl, _, step_of_live rfl, by decide +kernel⟩

/-- DutifulCallerAndLinkNeverFault: a caller with the largest request to come, a link with the largest answer. -/
theorem witness_DutifulCallerAndLinkNeverFault :
    StateInv { State.reset with host := [.issue (.transceive 29 8)], linkAnswers := [okAnswer (bytesOf 32)] } ∧
    ({ State.reset with host := [.issue (.transceive 29 8)], linkAnswers := [okAnswer (bytesOf 32)] } :
      State).fault = [] ∧
    callerKeeps { State.reset with host := [.issue (.transceive 29 8)], linkAnswers := [okAnswer (bytesOf 32)] } ∧
    linkKeeps { State.reset with host := [.issue (.transceive 29 8)], linkAnswers := [okAnswer (bytesOf 32)] } := by
  refine ⟨?_, rfl, ⟨?_, ?_⟩, ?_⟩
  · exact { params := by decide, buffers := ⟨rfl, rfl, rfl, rfl⟩, wtxBound := nofun, noOutcome := nofun,
            deliveredOutcome := nofun, failedOutcome := nofun, sendingFrame := nofun, retryFrame := nofun,
            rxBound := nofun }
  · intro c hc; simp at hc
  · intro c hc
    simp only [List.mem_cons, List.not_mem_nil, or_false, HostMove.issue.injEq] at hc
    subst hc; decide
  · intro a ha
    simp only [List.mem_cons, List.not_mem_nil, or_false] at ha
    subst ha
    exact ⟨by decide, by decide, fun _ => by decide⟩

/-- AttemptRegistersAreUnobservable: two idle states that differ in attempt registers, and a step of the first. -/
theorem witness_AttemptRegistersAreUnobservable :
    (sameOutside State.reset { State.reset with wtxCnt := 5, txLen := 9, txBuf := [(0, 1)] } ∧
      inAttempt State.reset.phase = false) ∧
    SameView State.reset { State.reset with wtxCnt := 5, txLen := 9, txBuf := [(0, 1)] } ∧
    BuffersWf State.reset ∧ BuffersWf { State.reset with wtxCnt := 5, txLen := 9, txBuf := [(0, 1)] } ∧
    linkKeeps State.reset ∧ ∃ t, step State.reset = .next t :=
  ⟨⟨rfl, rfl⟩, ⟨rfl, nofun, nofun, nofun, nofun, nofun⟩, ⟨rfl, rfl, rfl, rfl⟩, ⟨rfl, rfl, rfl, rfl⟩, nofun,
    _, step_of_live rfl⟩

/-- The multipliers and answers of S15. -/
def wtxAnswers : List LinkAnswer := List.replicate 11 (okAnswer [0xF2, 0x01, 0x91, 0x40])

/-- AlwaysWtxLinkEndsAfterTenRoundTrips: S15. -/
theorem witness_AlwaysWtxLinkEndsAfterTenRoundTrips :
    (callState [.issue (.transceive 2 16)] wtxAnswers).fault = [] ∧
    (callState [.issue (.transceive 2 16)] wtxAnswers).phase = .idle ∧
    (callState [.issue (.transceive 2 16)] wtxAnswers).params.ok ∧
    BuffersWf (callState [.issue (.transceive 2 16)] wtxAnswers) ∧ noConcurrentCall [] ∧
    (callState [.issue (.transceive 2 16)] wtxAnswers).host = .issue (.transceive 2 16) :: [] ∧
    2 ≤ (callState [.issue (.transceive 2 16)] wtxAnswers).params.frameBufCap - 3 ∧
    (callState [.issue (.transceive 2 16)] wtxAnswers).linkAnswers = wtxAnswers ++ [] ∧
    (List.replicate 11 (0x01 : Byte)).length = 11 ∧ wtxAnswers.length = 11 ∧
    (∀ (k : Nat) (m : Byte) (a : LinkAnswer), (List.replicate 11 (0x01 : Byte))[k]? = some m →
      wtxAnswers[k]? = some a →
      isWtxAnswer (callState [.issue (.transceive 2 16)] wtxAnswers).params m a) := by
  refine ⟨rfl, rfl, by decide, ⟨?_, ?_, ?_, ?_⟩, nofun, rfl, by decide, rfl, rfl, rfl, ?_⟩
  · decide +kernel
  · decide +kernel
  · decide +kernel
  · decide +kernel
  · intro k m a hm ha
    obtain rfl := List.eq_of_mem_replicate (List.mem_of_getElem? hm)
    obtain rfl := List.eq_of_mem_replicate (List.mem_of_getElem? ha)
    exact ⟨rfl, rfl, by decide, [], by decide +kernel⟩

/-- EveryAttemptEndsWithinTheBound: the largest request, with a link that answers freely. -/
theorem witness_EveryAttemptEndsWithinTheBound :
    (callState [.issue (.transceive 29 16)] []).fault = [] ∧ (callState [.issue (.transceive 29 16)] []).phase = .idle ∧
    (callState [.issue (.transceive 29 16)] []).params.ok ∧ noConcurrentCall [] ∧
    linkKeeps (callState [.issue (.transceive 29 16)] []) ∧
    (callState [.issue (.transceive 29 16)] []).host = .issue (.transceive 29 16) :: [] ∧
    29 ≤ (callState [.issue (.transceive 29 16)] []).params.frameBufCap - 3 :=
  ⟨rfl, rfl, by decide, nofun, nofun, rfl, by decide⟩

/-- SeqCountsDeliveriesModTwo: one step that delivers. -/
theorem witness_SeqCountsDeliveriesModTwo : StateInv (recvState 40 [0x02, 0x90, 0x00, 0xF1, 0x09]) ∧
    noReset (recvState 40 [0x02, 0x90, 0x00, 0xF1, 0x09]).host ∧
    ∃ t, Host.Core.run Sys2Proof.core 1 (recvState 40 [0x02, 0x90, 0x00, 0xF1, 0x09]) = .next t ∧
      deliveries t = 1 :=
  ⟨stateInv_awaiting, ⟨nofun, nofun⟩, _, run_of_step (step_of_live rfl), by decide +kernel⟩

/-- FailedAttemptLeavesSeqAndBuffers: S3, from IDLE to FAILED in three steps. -/
theorem witness_FailedAttemptLeavesSeqAndBuffers :
    (callState [.issue (.transceive 2 16)] [errAnswer 0]).phase = .idle ∧
    (callState [.issue (.transceive 2 16)] [errAnswer 0]).host = .issue (.transceive 2 16) :: [] ∧
    (∃ t, Host.Core.run Sys2Proof.core 3 (callState [.issue (.transceive 2 16)] [errAnswer 0]) = .next t ∧
      t.phase = .failed) ∧
    (∀ (j : Nat) (u : State), 0 < j → j < 3 →
      Host.Core.run Sys2Proof.core j (callState [.issue (.transceive 2 16)] [errAnswer 0]) = .next u →
      inAttempt u.phase = true) := by
  have e1 := step_of_live (s := callState [.issue (.transceive 2 16)] [errAnswer 0]) rfl
  have e2 := step_of_live (s := stepEffect (callState [.issue (.transceive 2 16)] [errAnswer 0])) (by decide +kernel)
  have e3 := step_of_live
    (s := stepEffect (stepEffect (callState [.issue (.transceive 2 16)] [errAnswer 0]))) (by decide +kernel)
  refine ⟨rfl, rfl,
    ⟨stepEffect (stepEffect (stepEffect (callState [.issue (.transceive 2 16)] [errAnswer 0]))), ?_, ?_⟩, ?_⟩
  · rw [run_of_step e1, run_of_step e2, run_of_step e3]; rfl
  · decide +kernel
  · intro j u h0 h3 hu
    obtain rfl | rfl : j = 1 ∨ j = 2 := by omega
    · rw [run_of_step e1] at hu
      obtain rfl := Host.Outcome.next.inj hu
      decide +kernel
    · rw [run_of_step e1, run_of_step e2] at hu
      obtain rfl := Host.Outcome.next.inj hu
      decide +kernel

/-- RetrySendsTheSameFrame: the same request after a failure, with another response capacity. -/
theorem witness_RetrySendsTheSameFrame :
    BuffersWf (callState [] []) ∧ BuffersWf { callState [] [] with wtxCnt := 3, txLen := 9 } ∧
    (callState [] []).params = ({ callState [] [] with wtxCnt := 3, txLen := 9 } : State).params ∧
    (callState [] []).seq = ({ callState [] [] with wtxCnt := 3, txLen := 9 } : State).seq ∧
    readBytes (callState [] []).reqBuf 0 2 =
      readBytes ({ callState [] [] with wtxCnt := 3, txLen := 9 } : State).reqBuf 0 2 ∧
    (∃ s', exec (.transceive 2 16) (callState [] []) = .next s' ∧ s'.phase = .sending) ∧
    (∃ t', exec (.transceive 2 8) { callState [] [] with wtxCnt := 3, txLen := 9 } = .next t' ∧
      t'.phase = .sending) ∧
    (callState [] []).phase = .idle ∧ ({ callState [] [] with wtxCnt := 3, txLen := 9 } : State).phase = .idle := by
  refine ⟨?_, ?_, rfl, rfl, rfl, ⟨_, (exec_transceive _ _ _).trans (live_of_live _ rfl), by decide +kernel⟩,
    ⟨_, (exec_transceive _ _ _).trans (live_of_live _ rfl), by decide +kernel⟩, rfl, rfl⟩
  · constructor <;> decide +kernel
  · constructor <;> decide +kernel

end Sys2Proof.Tests
end

section
/-! SUPPORT. O50: a link error code is not told apart (00_scope.md R7, decision D19). The caller's operations leave RX_STATUS
alone, the exchange latches it, the report overwrites it, and only the check of AWAITING_RESPONSE reads it: so every effect
commutes with a change of that register, and the check sees an error code as an error and nothing more. -/

namespace Sys2Proof.Machine

/-! ### The change of RX_STATUS alone -/

/-- The state with another RX_STATUS and everything else the same. -/
def State.withRxStatus (s : State) (x : LinkStatus) : State := { s with rxStatus := x }

@[simp] theorem withRxStatus_params (s : State) (x : LinkStatus) : (s.withRxStatus x).params = s.params := rfl
@[simp] theorem withRxStatus_phase (s : State) (x : LinkStatus) : (s.withRxStatus x).phase = s.phase := rfl
@[simp] theorem withRxStatus_rxBuf (s : State) (x : LinkStatus) : (s.withRxStatus x).rxBuf = s.rxBuf := rfl
@[simp] theorem withRxStatus_rxStatus (s : State) (x : LinkStatus) : (s.withRxStatus x).rxStatus = x := rfl
@[simp] theorem withRxStatus_host (s : State) (x : LinkStatus) : (s.withRxStatus x).host = s.host := rfl
@[simp] theorem linkAnswer_withRxStatus (s : State) (x : LinkStatus) : linkAnswer (s.withRxStatus x) = linkAnswer s := rfl

theorem withRxStatus_ite (p : Prop) [Decidable p] (s t : State) (x : LinkStatus) :
    (if p then s else t).withRxStatus x = if p then s.withRxStatus x else t.withRxStatus x :=
  apply_ite (State.withRxStatus · x) p s t

/-- Two states that differ in RX_STATUS at most, by a branch taken on both sides alike. -/
theorem ite_withRxStatus {p : Prop} [Decidable p] {s s' t t' : State} (hs : ∃ y, s' = s.withRxStatus y)
    (ht : ∃ y, t' = t.withRxStatus y) : ∃ y, (if p then s' else t') = (if p then s else t).withRxStatus y := by
  split
  · exact hs
  · exact ht

/-! ### The caller's operations neither read nor write RX_STATUS -/

theorem beginAttempt_withRxStatus (n k : Nat) (s : State) (x : LinkStatus) :
    beginAttempt n k (s.withRxStatus x) = (beginAttempt n k s).withRxStatus x := by
  rw [beginAttempt_eq, beginAttempt_eq, withRxStatus_ite]
  rfl

theorem noteReentry_withRxStatus (s : State) (x : LinkStatus) :
    noteReentry (s.withRxStatus x) = (noteReentry s).withRxStatus x := by
  rw [noteReentry, noteReentry, withRxStatus_ite]
  rfl

theorem noteRequestSize_withRxStatus (n : Nat) (s : State) (x : LinkStatus) :
    noteRequestSize n (s.withRxStatus x) = (noteRequestSize n s).withRxStatus x := by
  rw [noteRequestSize, noteRequestSize, withRxStatus_ite]
  rfl

theorem commandEffect_withRxStatus (c : Command) (s : State) (x : LinkStatus) :
    commandEffect c (s.withRxStatus x) = (commandEffect c s).withRxStatus x := by
  cases c with
  | transceive n k =>
    simp only [commandEffect, beginAttempt_withRxStatus, noteReentry_withRxStatus, noteRequestSize_withRxStatus,
      withRxStatus_ite]
    rfl
  | resetSequence =>
    simp only [commandEffect, withRxStatus_ite]
    rfl
  | encodeI q p =>
    simp only [commandEffect, withRxStatus_ite]
    rfl
  | encodeWtxAck m => rfl
  | decode r => rfl

theorem concurrentEffect_withRxStatus (c : Command) (s : State) (x : LinkStatus) :
    concurrentEffect c (s.withRxStatus x) = (concurrentEffect c s).withRxStatus x := by
  cases c with
  | transceive n k => exact commandEffect_withRxStatus (.transceive n k) s x
  | resetSequence => exact commandEffect_withRxStatus .resetSequence s x
  | encodeI q p => rfl
  | encodeWtxAck m => rfl
  | decode r => rfl

/-! ### The block's own effects -/

/-- The exchange keeps RX_STATUS when the link breaks its contract and latches the answer's status otherwise
(41_session.md R69, R78). -/
theorem exchange_withRxStatus (f : List Byte) (s : State) (x : LinkStatus) :
    ∃ y, exchange f (s.withRxStatus x) = (exchange f s).withRxStatus y := by
  simp only [exchange, linkAnswer_withRxStatus, withRxStatus_params, withRxStatus_rxBuf]
  refine ite_withRxStatus ⟨x, rfl⟩ ?_
  cases memWrite s.params.frameBufCap s.rxBuf 0 (linkAnswer s).bytes with
  | none => exact ⟨x, rfl⟩
  | some rx => exact ⟨(linkAnswer s).status, rfl⟩

theorem sendEffect_withRxStatus (s : State) (x : LinkStatus) :
    ∃ y, sendEffect (s.withRxStatus x) = (sendEffect s).withRxStatus y :=
  ite_withRxStatus (exchange_withRxStatus _ s x) ⟨x, rfl⟩

/-- Any error code fails the first check of a reception, and the failure does not carry it (41_session.md R70,
60_exceptions.md R98). -/
theorem receiveEffect_of_error {s : State} {c : Nat} (h : s.rxStatus = .error c) :
    receiveEffect s = raiseFail .linkError s := by
  simp [receiveEffect, h, linkOk]

/-- The block's own effect does not tell two error codes apart. -/
theorem blockEffect_withError {s : State} {c : Nat} (h : s.rxStatus = .error c) (d : Nat) :
    ∃ y, blockEffect (s.withRxStatus (.error d)) = (blockEffect s).withRxStatus y := by
  simp only [blockEffect, withRxStatus_phase]
  cases s.phase with
  | idle => exact ⟨.error d, rfl⟩
  | sending => exact sendEffect_withRxStatus s _
  | awaitingResponse =>
    rw [receiveEffect_of_error h, receiveEffect_of_error (withRxStatus_rxStatus s (.error d))]
    exact ⟨.error d, rfl⟩
  | wtxRetry => exact sendEffect_withRxStatus s _
  | delivered => exact ⟨(report s).rxStatus, rfl⟩
  | failed => exact ⟨(report s).rxStatus, rfl⟩

/-! ### One step -/

/-- A step does not tell two error codes apart, be it the caller's move or the block's own. -/
theorem stepEffect_withError {s : State} {c : Nat} (h : s.rxStatus = .error c) (d : Nat) :
    ∃ y, stepEffect (s.withRxStatus (.error d)) = (stepEffect s).withRxStatus y := by
  have hb := blockEffect_withError h d
  have hc (c : Command) (rest : List HostMove) :=
    commandEffect_withRxStatus c { s with host := rest } (.error d)
  have hn (c : Command) (rest : List HostMove) :=
    concurrentEffect_withRxStatus c { s with host := rest } (.error d)
  unfold stepEffect
  rw [withRxStatus_host]
  cases s.host with
  | nil => exact hb
  | cons m rest =>
    cases m with
    | issue c => exact ite_withRxStatus ⟨_, hc c rest⟩ hb
    | issueNow c => exact ite_withRxStatus ⟨_, hc c rest⟩ ⟨_, hn c rest⟩
    | writeReq bs => exact ite_withRxStatus ⟨.error d, rfl⟩ hb
    | writeResp bs => exact ite_withRxStatus ⟨.error d, rfl⟩ hb

/-- Settles O50: the two steps make states that differ in RX_STATUS alone, in whatever phase they start. -/
theorem linkErrorCodeIsNotObserved : Obligations.LinkErrorCodeIsNotObserved := by
  intro s t c d hc hs
  obtain ⟨hf, rfl⟩ := step_eq_next hs
  obtain ⟨y, hy⟩ := stepEffect_withError hc d
  have hstep : step (s.withRxStatus (.error d)) = .next (stepEffect (s.withRxStatus (.error d))) := step_of_live hf
  exact ⟨_, hstep, by rw [hy]; rfl⟩

end Sys2Proof.Machine
end

section
/-! SUPPORT. O52: the attempt registers cannot be observed outside an attempt (10_state.md R24, decision D27). SameView is
kept by every operation a step is made of: an operation that leaves the attempt registers and the phase alone keeps it as it
is, one that leaves the attempt needs agreement on no attempt register, and one that begins a phase writes what that phase
reads. -/

namespace Sys2Proof.Machine

/-! ### Agreement outside the attempt registers -/

/-- The attempt registers of 10_state.md R24. -/
structure AttemptRegs where
  wtxCnt : Nat
  txBuf : Memory
  txLen : Nat
  rxBuf : Memory
  rxBits : Nat
  rxStatus : LinkStatus
  maxResp : Nat

/-- What the attempt registers of a state hold. -/
def State.attemptRegs (s : State) : AttemptRegs :=
  ⟨s.wtxCnt, s.txBuf, s.txLen, s.rxBuf, s.rxBits, s.rxStatus, s.maxResp⟩

/-- The state with other attempt registers and everything else the same. -/
def State.withAttemptRegs (s : State) (r : AttemptRegs) : State :=
  { s with wtxCnt := r.wtxCnt, txBuf := r.txBuf, txLen := r.txLen, rxBuf := r.rxBuf, rxBits := r.rxBits,
           rxStatus := r.rxStatus, maxResp := r.maxResp }

/-- The states that agree with `s` outside the attempt registers are those with other attempt registers. -/
theorem sameOutside_iff {s t : State} : sameOutside s t ↔ ∃ r, t = s.withAttemptRegs r :=
  ⟨fun h => ⟨t.attemptRegs, h⟩, by rintro ⟨r, rfl⟩; rfl⟩

theorem sameOutside.params {s t : State} (h : sameOutside s t) : t.params = s.params := by
  obtain ⟨r, rfl⟩ := sameOutside_iff.1 h; rfl

theorem sameOutside.phase {s t : State} (h : sameOutside s t) : t.phase = s.phase := by
  obtain ⟨r, rfl⟩ := sameOutside_iff.1 h; rfl

theorem sameOutside.fault {s t : State} (h : sameOutside s t) : t.fault = s.fault := by
  obtain ⟨r, rfl⟩ := sameOutside_iff.1 h; rfl

/-! ### SameView from its parts -/

/-- Where no attempt is in progress the phase uses none of the attempt registers. -/
theorem sameView_of_not_inAttempt {s t : State} (hp : inAttempt s.phase = false) (ho : sameOutside s t) :
    SameView s t where
  outside := ho
  limits h := by simp [hp] at h
  sending h := by simp [h, inAttempt] at hp
  retry h := by simp [h, inAttempt] at hp
  status h := by simp [h, inAttempt] at hp
  reception h := by simp [h, inAttempt] at hp

/-- SameView speaks of the phase and the attempt registers only, beside what lies outside them. -/
theorem SameView.of_same_attemptRegs {s t s' t' : State} (h : SameView s t) (ho : sameOutside s' t')
    (hp : s'.phase = s.phase) (hs : s'.attemptRegs = s.attemptRegs) (ht : t'.attemptRegs = t.attemptRegs) :
    SameView s' t' := by
  simp only [State.attemptRegs, AttemptRegs.mk.injEq] at hs ht
  obtain ⟨hsWtx, hsTx, hsTxLen, hsRx, hsBits, hsStat, hsMax⟩ := hs
  obtain ⟨htWtx, htTx, htTxLen, htRx, htBits, htStat, htMax⟩ := ht
  exact {
    outside := ho
    limits := by rw [hp, hsWtx, htWtx, hsMax, htMax]; exact h.limits
    sending := by rw [hp, hsTxLen, htTxLen, hsTx, htTx]; exact h.sending
    retry := by rw [hp, hsTx, htTx]; exact h.retry
    status := by rw [hp, hsStat, htStat]; exact h.status
    reception := by rw [hp, hsStat, hsBits, htBits, hsRx, htRx]; exact h.reception }

/-- A branch taken on both sides alike. -/
theorem SameView.ite {p : Prop} [Decidable p] {s s' t t' : State} (h : SameView s t) (h' : SameView s' t') :
    SameView (if p then s else s') (if p then t else t') := by
  split
  · exact h
  · exact h'

/-! ### Operations that leave the attempt registers alone -/

theorem SameView.raiseFault {s t : State} (h : SameView s t) (u : UsageFault) :
    SameView (raiseFault u s) (raiseFault u t) :=
  h.of_same_attemptRegs (congrArg (Machine.raiseFault u) h.outside) rfl rfl rfl

theorem SameView.present {s t : State} (h : SameView s t) (r : Result) : SameView (present r s) (present r t) :=
  h.of_same_attemptRegs (congrArg (Machine.present r) h.outside) rfl rfl rfl

theorem SameView.withHost {s t : State} (h : SameView s t) (moves : List HostMove) :
    SameView { s with host := moves } { t with host := moves } := by
  obtain ⟨r, rfl⟩ := sameOutside_iff.1 h.outside
  exact h.of_same_attemptRegs rfl rfl rfl rfl

theorem SameView.withReqBuf {s t : State} (h : SameView s t) (m : Memory) :
    SameView { s with reqBuf := m } { t with reqBuf := m } := by
  obtain ⟨r, rfl⟩ := sameOutside_iff.1 h.outside
  exact h.of_same_attemptRegs rfl rfl rfl rfl

theorem SameView.withRespBuf {s t : State} (h : SameView s t) (m : Memory) :
    SameView { s with respBuf := m } { t with respBuf := m } := by
  obtain ⟨r, rfl⟩ := sameOutside_iff.1 h.outside
  exact h.of_same_attemptRegs rfl rfl rfl rfl

theorem SameView.withSeq {s t : State} (h : SameView s t) (b : Bit) : SameView { s with seq := b } { t with seq := b } := by
  obtain ⟨r, rfl⟩ := sameOutside_iff.1 h.outside
  exact h.of_same_attemptRegs rfl rfl rfl rfl

theorem SameView.noteRequestSize {s t : State} (h : SameView s t) (n : Nat) :
    SameView (noteRequestSize n s) (noteRequestSize n t) := by
  obtain ⟨r, rfl⟩ := sameOutside_iff.1 h.outside
  exact .ite (h.raiseFault _) h

/-! ### Operations that leave the attempt -/

theorem SameView.raiseFail {s t : State} (h : SameView s t) (e : TransceiveError) :
    SameView (raiseFail e s) (raiseFail e t) :=
  sameView_of_not_inAttempt rfl (congrArg (Machine.raiseFail e) h.outside)

/-- The free draw of the attempt registers is indexed by a counter that lies outside them. -/
theorem SameView.report {s t : State} (h : SameView s t) : SameView (report s) (report t) := by
  obtain ⟨r, rfl⟩ := sameOutside_iff.1 h.outside
  exact sameView_of_not_inAttempt rfl rfl

theorem SameView.acceptResponse {s t : State} (h : SameView s t) (hm : s.maxResp = t.maxResp) (payload : List Byte) :
    SameView (acceptResponse payload s) (acceptResponse payload t) := by
  obtain ⟨r, rfl⟩ := sameOutside_iff.1 h.outside
  rw [acceptResponse_eq, acceptResponse_eq, ← hm]
  exact .ite (h.raiseFail _) (sameView_of_not_inAttempt rfl rfl)

/-! ### Operations that begin a phase write what the phase reads -/

/-- Two canonical buffers into which the same bytes were written read alike as far as those bytes go. -/
theorem readBytes_writeBytes_agree {m m' : Memory} {bs : List Byte} {n : Nat} (h : m.wf = true) (h' : m'.wf = true)
    (hn : n ≤ bs.length) : readBytes (writeBytes m 0 bs) 0 n = readBytes (writeBytes m' 0 bs) 0 n := by
  rw [readBytes_take _ 0 hn, readBytes_take _ 0 hn, readBytes_writeBytes 0 bs h, readBytes_writeBytes 0 bs h']

/-- SENDING reads the frame that TRANSCEIVE wrote (41_session.md R68). -/
theorem sameView_startAttempt {s t : State} (h : sameOutside s t) (hs : s.txBuf.wf = true) (ht : t.txBuf.wf = true)
    {frame : List Byte} {n : Nat} (k : Nat) (hn : frame.length = n + 3) :
    SameView (startAttempt (writeBytes s.txBuf 0 frame) n k s) (startAttempt (writeBytes t.txBuf 0 frame) n k t) where
  outside := by obtain ⟨r, rfl⟩ := sameOutside_iff.1 h; rfl
  limits _ := ⟨rfl, rfl⟩
  sending _ := ⟨rfl, readBytes_writeBytes_agree hs ht hn.ge⟩
  retry hp := by cases hp
  status hp := by cases hp
  reception hp := by cases hp

/-- WTX_RETRY reads the acknowledgement that the S(WTX) frame was answered with (41_session.md R76). -/
theorem sameView_queueAck {s t : State} (h : sameOutside s t) (hs : s.txBuf.wf = true) (ht : t.txBuf.wf = true)
    (hw : s.wtxCnt = t.wtxCnt) (hm : s.maxResp = t.maxResp) {frame : List Byte} (hl : frame.length = 4) :
    SameView (queueAck (writeBytes s.txBuf 0 frame) s) (queueAck (writeBytes t.txBuf 0 frame) t) where
  outside := by obtain ⟨r, rfl⟩ := sameOutside_iff.1 h; rfl
  limits _ := ⟨congrArg (· + 1) hw, hm⟩
  sending hp := by cases hp
  retry _ := readBytes_writeBytes_agree hs ht hl.ge
  status hp := by cases hp
  reception hp := by cases hp

/-- AWAITING_RESPONSE reads no more of RX_BUF than a link that keeps its contract has written (42_interfaces.md R92 (d)). -/
theorem sameView_exchange {s t : State} (h : sameOutside s t) (hs : s.rxBuf.wf = true) (ht : t.rxBuf.wf = true)
    (hw : s.wtxCnt = t.wtxCnt) (hm : s.maxResp = t.maxResp) (hk : linkKeeps s) (frame : List Byte) :
    SameView (exchange frame s) (exchange frame t) := by
  obtain ⟨r, rfl⟩ := sameOutside_iff.1 h
  have hkeeps := linkAnswer_keeps hk
  rw [exchange_of_keeps frame hkeeps, exchange_of_keeps (s := s.withAttemptRegs r) frame hkeeps]
  obtain ⟨-, -, hbytes⟩ := hkeeps
  have hfill (hok : (linkAnswer s).status = .success) : (linkAnswer s).bits / 8 ≤ (linkAnswer s).bytes.length :=
    (Nat.div_le_div_right (Nat.le_add_right _ 7)).trans (hbytes hok)
  exact {
    outside := rfl
    limits := fun _ => ⟨hw, hm⟩
    sending := fun hp => by cases hp
    retry := fun hp => by cases hp
    status := fun _ => Iff.rfl
    reception := fun _ hok => ⟨rfl, readBytes_writeBytes_agree hs ht (hfill hok)⟩ }

/-! ### The effects of a step -/

theorem SameView.commandEffect {s t : State} (h : SameView s t) (hs : s.txBuf.wf = true) (ht : t.txBuf.wf = true)
    (c : Command) : SameView (commandEffect c s) (commandEffect c t) := by
  obtain ⟨r, rfl⟩ := sameOutside_iff.1 h.outside
  cases c with
  | transceive n k =>
    have hstart : SameView (beginAttempt n k s) (beginAttempt n k (s.withAttemptRegs r)) := by
      rw [beginAttempt_eq, beginAttempt_eq]
      exact .ite (sameView_startAttempt h.outside hs ht k (by simp [requestFrame])) (h.raiseFault _)
    have hnote : SameView (noteReentry s) (noteReentry (s.withAttemptRegs r)) := .ite h (h.raiseFault _)
    exact .ite hstart (hnote.noteRequestSize n)
  | resetSequence => exact .ite (h.withSeq 0) (h.raiseFault _)
  | encodeI q p => exact .ite (h.raiseFault _) (h.present _)
  | encodeWtxAck m => exact h.present _
  | decode raw => exact h.present _

theorem SameView.concurrentEffect {s t : State} (h : SameView s t) (hs : s.txBuf.wf = true) (ht : t.txBuf.wf = true)
    (c : Command) : SameView (concurrentEffect c s) (concurrentEffect c t) := by
  cases c with
  | transceive n k => exact h.commandEffect hs ht (.transceive n k)
  | resetSequence => exact h.commandEffect hs ht .resetSequence
  | encodeI q p => exact h.raiseFault _
  | encodeWtxAck m => exact h.raiseFault _
  | decode raw => exact h.raiseFault _

theorem SameView.sendEffect {s t : State} (h : SameView s t) (hp : s.phase = .sending ∨ s.phase = .wtxRetry)
    (hs : s.rxBuf.wf = true) (ht : t.rxBuf.wf = true) (hk : linkKeeps s) : SameView (sendEffect s) (sendEffect t) := by
  obtain ⟨hw, hm⟩ := h.limits (by rcases hp with hp | hp <;> simp [hp, inAttempt])
  have hframe : txCount s = txCount t ∧ readBytes s.txBuf 0 (txCount s) = readBytes t.txBuf 0 (txCount t) := by
    have htp : t.phase = s.phase := h.outside.phase
    rcases hp with hp | hp
    · simpa [txCount, htp, hp] using h.sending hp
    · simpa [txCount, htp, hp, ackLen] using h.retry hp
  obtain ⟨hcount, hbytes⟩ := hframe
  have hcap : t.params = s.params := h.outside.params
  rw [Machine.sendEffect, Machine.sendEffect, hcap, ← hbytes, ← hcount]
  exact .ite (sameView_exchange h.outside hs ht hw hm hk _) (h.raiseFault _)

theorem SameView.answerWtx {s t : State} (h : SameView s t) (hs : s.txBuf.wf = true) (ht : t.txBuf.wf = true)
    (hw : s.wtxCnt = t.wtxCnt) (hm : s.maxResp = t.maxResp) (payload : List Byte) :
    SameView (answerWtx payload s) (answerWtx payload t) := by
  obtain ⟨r, rfl⟩ := sameOutside_iff.1 h.outside
  cases payload with
  | nil => exact h.raiseFail _
  | cons m rest =>
    rw [answerWtx_cons, answerWtx_cons, ← hw]
    exact .ite (h.raiseFail _) (.ite (sameView_queueAck h.outside hs ht hw hm (encodeWtxAckFrame_length _ m)) (h.raiseFault _))

/-- The check of the status does not tell two errors apart, and after a success the check and the classes of a frame use the
bytes received, MAX_RESP and the counter only. -/
theorem SameView.receiveEffect {s t : State} (h : SameView s t) (hp : s.phase = .awaitingResponse)
    (hs : s.txBuf.wf = true) (ht : t.txBuf.wf = true) : SameView (receiveEffect s) (receiveEffect t) := by
  obtain ⟨hw, hm⟩ := h.limits (by simp [hp, inAttempt])
  have hstat := h.status hp
  by_cases hok : s.rxStatus = .success
  · obtain ⟨hbits, hbytes⟩ := h.reception hp hok
    rw [← hbits] at hbytes
    have hframe (pcb : Byte) (payload : List Byte) : SameView (frameEffect pcb payload s) (frameEffect pcb payload t) :=
      .ite (h.acceptResponse hm payload) (.ite (h.answerWtx hs ht hw hm payload) (h.raiseFail _))
    have hparams : t.params = s.params := h.outside.params
    simp only [Machine.receiveEffect, (linkOk_iff _).2 hok, (linkOk_iff _).2 (hstat.1 hok), crcOf, hparams, hbytes, ← hbits]
    refine .ite (h.raiseFail _) (.ite (h.raiseFail _) (.ite ?_ (h.raiseFault _)))
    cases checkFrame (crc16a s.params.crc) (readBytes t.rxBuf 0 (s.rxBits / 8)) with
    | error e => exact h.raiseFail _
    | ok frame => exact hframe frame.1 frame.2
  · have hs' : linkOk s.rxStatus = false := by rw [← Bool.not_eq_true, linkOk_iff]; exact hok
    have ht' : linkOk t.rxStatus = false := by rw [← Bool.not_eq_true, linkOk_iff, ← hstat]; exact hok
    rw [Machine.receiveEffect, Machine.receiveEffect, if_pos hs', if_pos ht']
    exact h.raiseFail _

theorem SameView.blockEffect {s t : State} (h : SameView s t) (hs : BuffersWf s) (ht : BuffersWf t) (hk : linkKeeps s) :
    SameView (blockEffect s) (blockEffect t) := by
  have htp : t.phase = s.phase := h.outside.phase
  unfold Machine.blockEffect
  rw [htp]
  cases hp : s.phase with
  | idle => exact h
  | sending => exact h.sendEffect (.inl hp) hs.rx ht.rx hk
  | awaitingResponse => exact h.receiveEffect hp hs.tx ht.tx
  | wtxRetry => exact h.sendEffect (.inr hp) hs.rx ht.rx hk
  | delivered => exact h.report
  | failed => exact h.report

theorem SameView.stepEffect {s t : State} (h : SameView s t) (hs : BuffersWf s) (ht : BuffersWf t) (hk : linkKeeps s) :
    SameView (stepEffect s) (stepEffect t) := by
  have hb := h.blockEffect hs ht hk
  obtain ⟨r, rfl⟩ := sameOutside_iff.1 h.outside
  have hhost : (s.withAttemptRegs r).host = s.host := rfl
  unfold Machine.stepEffect
  rw [hhost]
  cases s.host with
  | nil => exact hb
  | cons move rest =>
    have hrest := h.withHost rest
    cases move with
    | issue c => exact .ite (hrest.commandEffect hs.tx ht.tx c) hb
    | issueNow c => exact .ite (hrest.commandEffect hs.tx ht.tx c) (hrest.concurrentEffect hs.tx ht.tx c)
    | writeReq bs => exact .ite (hrest.withReqBuf _) hb
    | writeResp bs => exact .ite (hrest.withRespBuf _) hb

/-- Settles O52: SameView is a simulation, and outside an attempt it asks for agreement on no attempt register. -/
theorem attemptRegistersAreUnobservable : Obligations.AttemptRegistersAreUnobservable := by
  refine ⟨fun s s' t h hs ht hk hstep => ?_, fun s t => sameView_of_not_inAttempt⟩
  obtain ⟨hf, rfl⟩ := step_eq_next hstep
  have htf : t.fault = [] := h.outside.fault.trans hf
  exact ⟨_, step_of_live htf, h.stepEffect hs ht hk⟩

end Sys2Proof.Machine
end

section
/-! SUPPORT. What one exchange on the link port leaves alone, whatever the link answers (41_session.md R69, R78). -/

namespace Sys2Proof.Machine

@[simp] theorem exchange_params (f : List Byte) (s : State) : (exchange f s).params = s.params := by
  rcases exchange_cases f s with ⟨-, h⟩ | ⟨-, -, h⟩ | ⟨-, -, h⟩ <;> rw [h] <;> rfl

@[simp] theorem exchange_seq (f : List Byte) (s : State) : (exchange f s).seq = s.seq := by
  rcases exchange_cases f s with ⟨-, h⟩ | ⟨-, -, h⟩ | ⟨-, -, h⟩ <;> rw [h] <;> rfl

@[simp] theorem exchange_outcome (f : List Byte) (s : State) : (exchange f s).outcome = s.outcome := by
  rcases exchange_cases f s with ⟨-, h⟩ | ⟨-, -, h⟩ | ⟨-, -, h⟩ <;> rw [h] <;> rfl

@[simp] theorem exchange_host (f : List Byte) (s : State) : (exchange f s).host = s.host := by
  rcases exchange_cases f s with ⟨-, h⟩ | ⟨-, -, h⟩ | ⟨-, -, h⟩ <;> rw [h] <;> rfl

@[simp] theorem exchange_results (f : List Byte) (s : State) : (exchange f s).results = s.results := by
  rcases exchange_cases f s with ⟨-, h⟩ | ⟨-, -, h⟩ | ⟨-, -, h⟩ <;> rw [h] <;> rfl

/-- An exchange ends in AWAITING_RESPONSE, or in the phase it began in with a usage fault recorded. -/
theorem exchange_phase (f : List Byte) (s : State) :
    (exchange f s).phase = s.phase ∨ (exchange f s).phase = .awaitingResponse := by
  rcases exchange_cases f s with ⟨-, h⟩ | ⟨-, -, h⟩ | ⟨-, -, h⟩
  · exact .inl (by rw [h]; rfl)
  · exact .inl (by rw [h]; rfl)
  · exact .inr (by rw [h]; rfl)

/-- An exchange writes RX_BUF only, in canonical form. -/
theorem exchange_buffersWf (f : List Byte) {s : State} (h : BuffersWf s) : BuffersWf (exchange f s) := by
  obtain ⟨htx, hrx, hreq, hresp⟩ := h
  rcases exchange_cases f s with ⟨-, he⟩ | ⟨-, -, he⟩ | ⟨-, -, he⟩
  · rw [he]; exact ⟨htx, hrx, hreq, hresp⟩
  · rw [he]; exact ⟨htx, hrx, hreq, hresp⟩
  · rw [he]; exact ⟨htx, wf_writeBytes 0 _ hrx, hreq, hresp⟩

end Sys2Proof.Machine
end

section
/-! SUPPORT. O41: the canonical form of the buffers and the parameters (10_state.md R13). Every write of a buffer is a
writeBytes or a free buffer, and no case of a step writes the parameters. -/

namespace Sys2Proof.Machine

theorem CommandCase.buffersWf {s t : State} {c : Command} (h : CommandCase s c t) (hs : BuffersWf s) : BuffersWf t := by
  obtain ⟨htx, hrx, hreq, hresp⟩ := hs
  cases h with
  | faulted _ fs hfs => exact ⟨htx, hrx, hreq, hresp⟩
  | started n k hp hn hl => exact ⟨wf_writeBytes 0 _ htx, hrx, hreq, hresp⟩
  | cleared hp => exact ⟨htx, hrx, hreq, hresp⟩
  | presented _ r hr => exact ⟨htx, hrx, hreq, hresp⟩

theorem CommandCase.params {s t : State} {c : Command} (h : CommandCase s c t) : t.params = s.params := by
  cases h <;> rfl

theorem StepCase.buffersWf {s t : State} (h : StepCase s t) (hs : BuffersWf s) : BuffersWf t := by
  have hs' := hs
  obtain ⟨htx, hrx, hreq, hresp⟩ := hs'
  cases h with
  | command c rest _ hh ht he => exact ht.buffersWf ⟨htx, hrx, hreq, hresp⟩
  | writeReq bs rest hp hh => exact ⟨htx, hrx, wf_writeBytes 0 bs hreq, hresp⟩
  | writeResp bs rest hp hh => exact ⟨htx, hrx, hreq, wf_writeBytes 0 bs hresp⟩
  | waited hp => exact hs
  | sent hp hl => exact exchange_buffersWf _ hs
  | sentOutside hp hl => exact ⟨htx, hrx, hreq, hresp⟩
  | failed e hp => exact ⟨htx, hrx, hreq, hresp⟩
  | receivedOutside hp hl => exact ⟨htx, hrx, hreq, hresp⟩
  | delivered payload hp hl => exact ⟨htx, hrx, hreq, wf_writeBytes 0 payload hresp⟩
  | acknowledged m hp hn h4 => exact ⟨wf_writeBytes 0 _ htx, hrx, hreq, hresp⟩
  | acknowledgedOutside hp h4 => exact ⟨htx, hrx, hreq, hresp⟩
  | reported hp => exact ⟨wf_freeBuffer _ _, wf_freeBuffer _ _, hreq, hresp⟩

theorem StepCase.params {s t : State} (h : StepCase s t) : t.params = s.params := by
  cases h with
  | command c rest _ hh ht he => exact ht.params
  | sent hp hl => exact exchange_params _ s
  | _ => rfl

/-- Settles O41, by the cases of a step. -/
theorem everyStepKeepsBuffersCanonical : Obligations.EveryStepKeepsBuffersCanonical := by
  intro s t hs hstep
  obtain ⟨-, hcase⟩ := step_cases hstep
  exact ⟨hcase.buffersWf hs, hcase.params⟩

end Sys2Proof.Machine
end

section
/-! SUPPORT. O42: SEQ has two writers (10_state.md R14). A RESET_SEQUENCE that is due clears it; in every other case of a step
only the delivery writes it. -/

namespace Sys2Proof.Machine

/-- A RESET_SEQUENCE of the caller that is due: in IDLE, next in the queue. -/
def resetDue (s : State) : Prop :=
  s.phase = .idle ∧ ∃ rest, s.host = .issue .resetSequence :: rest ∨ s.host = .issueNow .resetSequence :: rest

/-- A RESET_SEQUENCE that is due clears SEQ and stays in IDLE (41_session.md R87). -/
theorem stepEffect_of_resetDue {s : State} (h : resetDue s) : (stepEffect s).phase = .idle ∧ (stepEffect s).seq = 0 := by
  obtain ⟨hp, rest, hh | hh⟩ := h <;> simp [stepEffect, commandEffect, hh, hp]

/-- Of the operations of the command port only RESET_SEQUENCE in IDLE writes SEQ. -/
theorem CommandCase.seq {s t : State} {c : Command} (h : CommandCase s c t) (hc : s.phase = .idle → c ≠ .resetSequence) :
    t.seq = s.seq := by
  cases h with
  | cleared hp => exact absurd rfl (hc hp)
  | _ => rfl

/-- An operation of the command port keeps the phase, or TRANSCEIVE leaves IDLE for SENDING (41_session.md R85). -/
theorem CommandCase.phase {s t : State} {c : Command} (h : CommandCase s c t) :
    t.phase = s.phase ∨ s.phase = .idle ∧ t.phase = .sending := by
  cases h with
  | started n k hp hn hl => exact .inr ⟨hp, rfl⟩
  | _ => exact .inl rfl

/-- The block delivers in the step from one state to the other (41_session.md R75). -/
def delivers (s t : State) : Prop := s.phase = .awaitingResponse ∧ t.phase = .delivered

theorem not_delivers_of_phase {s t : State} (h : s.phase ≠ .awaitingResponse) : ¬ delivers s t := fun hd => h hd.1

theorem not_delivers_of_phase_eq {s t : State} (h : t.phase = s.phase) : ¬ delivers s t := by
  rintro ⟨hs, ht⟩
  rw [h, hs] at ht
  cases ht

theorem CommandCase.not_delivers {s t : State} {c : Command} (h : CommandCase s c t) : ¬ delivers s t := by
  rcases h.phase with hp | ⟨hp, -⟩
  · exact not_delivers_of_phase_eq hp
  · exact not_delivers_of_phase (by simp [hp])

/-- A step that is no RESET_SEQUENCE in IDLE toggles SEQ if it delivers and keeps it if not. -/
theorem StepCase.seq {s t : State} (h : StepCase s t) (hr : ¬ resetDue s) :
    (delivers s t ∧ t.seq = toggle s.seq) ∨ (¬ delivers s t ∧ t.seq = s.seq) := by
  cases h with
  | command c rest _ hh ht he =>
    have hc : s.phase = .idle → c ≠ .resetSequence := by
      rintro hp rfl
      exact hr ⟨hp, rest, hh.imp And.right id⟩
    exact .inr ⟨ht.not_delivers, ht.seq hc⟩
  | sent hp hl => exact .inr ⟨not_delivers_of_phase (by rcases hp with hp | hp <;> simp [hp]), exchange_seq _ s⟩
  | failed e hp => exact .inr ⟨by simp [delivers], rfl⟩
  | delivered payload hp hl => exact .inl ⟨⟨hp, rfl⟩, rfl⟩
  | acknowledged m hp hn h4 => exact .inr ⟨by simp [delivers], rfl⟩
  | reported hp => exact .inr ⟨by simp [delivers], rfl⟩
  | _ => exact .inr ⟨not_delivers_of_phase_eq rfl, rfl⟩

/-- Settles O42: a RESET_SEQUENCE that is due is the second writer, the delivery the first. -/
theorem seqHasTwoWriters : Obligations.SeqHasTwoWriters := by
  intro s t hstep
  obtain ⟨-, rfl⟩ := step_eq_next hstep
  by_cases hr : resetDue s
  · obtain ⟨hphase, hseq⟩ := stepEffect_of_resetDue hr
    exact .inr (.inl ⟨hr.1, hphase, hseq, hr.2⟩)
  · rcases (stepEffect_case s).seq hr with ⟨⟨hs, ht⟩, hseq⟩ | ⟨hd, hseq⟩
    · exact .inl ⟨hs, ht, hseq⟩
    · exact .inr (.inr ⟨hd, hr, hseq⟩)

end Sys2Proof.Machine
end

section
/-! SUPPORT. O55: along a run without RESET_SEQUENCE, SEQ moves by the number of deliveries modulo 2 (10_state.md R17). A step
that delivers toggles SEQ and counts one delivery, every other step leaves both alone. The count needs that the outcome fits
the terminal phase, so that a report counts what the phase has counted; that part of StateInv is kept by itself. -/

namespace Sys2Proof.Machine

/-- OUTCOME fits the terminal phase: the part of StateInv that the count of deliveries rests on (10_state.md R23). -/
structure OutcomeFits (s : State) : Prop where
  delivered : s.phase = .delivered → ∃ n, s.outcome = some (.delivered n)
  failed : s.phase = .failed → ∃ e, s.outcome = some (.failed e)

theorem StateInv.outcomeFits {s : State} (h : StateInv s) : OutcomeFits s := ⟨h.deliveredOutcome, h.failedOutcome⟩

theorem outcomeFits_of_not_terminal {s : State} (hd : s.phase ≠ .delivered) (hf : s.phase ≠ .failed) : OutcomeFits s :=
  ⟨fun h => absurd h hd, fun h => absurd h hf⟩

theorem CommandCase.outcomeFits {s t : State} {c : Command} (h : CommandCase s c t) (hs : OutcomeFits s) :
    OutcomeFits t := by
  cases h with
  | started n k hp hn hl => exact outcomeFits_of_not_terminal (by simp) (by simp)
  | _ => exact ⟨hs.delivered, hs.failed⟩

theorem exchange_outcomeFits (f : List Byte) {s : State} (hs : OutcomeFits s) : OutcomeFits (exchange f s) := by
  rcases exchange_phase f s with hp | hp
  · exact ⟨by rw [hp, exchange_outcome]; exact hs.delivered, by rw [hp, exchange_outcome]; exact hs.failed⟩
  · exact outcomeFits_of_not_terminal (by simp [hp]) (by simp [hp])

theorem StepCase.outcomeFits {s t : State} (h : StepCase s t) (hs : OutcomeFits s) : OutcomeFits t := by
  cases h with
  | command c rest _ hh ht he => exact ht.outcomeFits ⟨hs.delivered, hs.failed⟩
  | sent hp hl => exact exchange_outcomeFits _ hs
  | failed e hp => exact ⟨by simp, fun _ => ⟨e, rfl⟩⟩
  | delivered payload hp hl => exact ⟨fun _ => ⟨payload.length, rfl⟩, by simp⟩
  | acknowledged m hp hn h4 => exact outcomeFits_of_not_terminal (by simp) (by simp)
  | reported hp => exact outcomeFits_of_not_terminal (by simp) (by simp)
  | _ => exact ⟨hs.delivered, hs.failed⟩

/-! ### The count of deliveries -/

theorem deliveries_of_not_delivered {s : State} (hp : s.phase ≠ .delivered) :
    deliveries s = s.results.countP Result.isDelivery := by
  simp [deliveries, hp]

/-- The count when the results stay and neither phase is DELIVERED. -/
theorem deliveries_eq_of_not_delivered {s t : State} (hs : s.phase ≠ .delivered) (ht : t.phase ≠ .delivered)
    (hr : t.results = s.results) : deliveries t = deliveries s := by
  rw [deliveries_of_not_delivered hs, deliveries_of_not_delivered ht, hr]

/-- A report counts the delivery that the phase DELIVERED has counted, and a failed attempt not at all. -/
theorem deliveries_report {s : State} (hs : OutcomeFits s) (hp : s.phase = .delivered ∨ s.phase = .failed) :
    deliveries (report s) = deliveries s := by
  rcases hp with hp | hp
  · obtain ⟨n, ho⟩ := hs.delivered hp
    simp [deliveries, hp, ho, Result.isDelivery]
  · obtain ⟨e, ho⟩ := hs.failed hp
    simp [deliveries, hp, ho, Result.isDelivery]

theorem isDelivery_of_not_outcome {r : Result} (hr : ∀ o, r ≠ .outcome o) : r.isDelivery = false := by
  cases r with
  | outcome o => exact absurd rfl (hr o)
  | _ => rfl

theorem CommandCase.deliveries {s t : State} {c : Command} (h : CommandCase s c t) : deliveries t = deliveries s := by
  cases h with
  | started n k hp hn hl => exact deliveries_eq_of_not_delivered (by simp [hp]) (by simp) rfl
  | presented _ r hr =>
    have hcount : (present r s).results.countP Result.isDelivery = s.results.countP Result.isDelivery := by
      simp [isDelivery_of_not_outcome hr]
    exact congrArg (· + if s.phase = .delivered then 1 else 0) hcount
  | _ => rfl

/-- A step counts one delivery if it delivers and none if not. -/
theorem StepCase.deliveries {s t : State} (h : StepCase s t) (hs : OutcomeFits s) :
    (delivers s t → deliveries t = deliveries s + 1) ∧ (¬ delivers s t → deliveries t = deliveries s) := by
  cases h with
  | command c rest _ hh ht he => exact ⟨fun hd => absurd hd ht.not_delivers, fun _ => ht.deliveries⟩
  | sent hp hl =>
    have hps : s.phase ≠ .delivered ∧ s.phase ≠ .awaitingResponse := by rcases hp with hp | hp <;> simp [hp]
    refine ⟨fun hd => absurd hd.1 hps.2, fun _ => deliveries_eq_of_not_delivered hps.1 ?_ (exchange_results _ s)⟩
    rcases exchange_phase (readBytes s.txBuf 0 (txCount s)) s with he | he
    · exact he ▸ hps.1
    · simp [he]
  | failed e hp => exact ⟨by simp [delivers], fun _ => deliveries_eq_of_not_delivered (by simp [hp]) (by simp) rfl⟩
  | delivered payload hp hl => exact ⟨fun _ => by simp [Machine.deliveries, hp], fun hd => absurd ⟨hp, rfl⟩ hd⟩
  | acknowledged m hp hn h4 => exact ⟨by simp [delivers], fun _ => deliveries_eq_of_not_delivered (by simp [hp]) (by simp) rfl⟩
  | reported hp => exact ⟨by simp [delivers], fun _ => deliveries_report hs hp⟩
  | _ => exact ⟨fun hd => absurd hd (not_delivers_of_phase_eq rfl), fun _ => rfl⟩

/-! ### The caller's queue -/

/-- A step takes at most the first move out of the caller's queue (log entry 15). -/
theorem StepCase.host {s t : State} (h : StepCase s t) : t.host = s.host ∨ ∃ m, s.host = m :: t.host := by
  cases h with
  | command c rest _ hh ht he =>
    have hrest : t.host = rest := by cases ht <;> rfl
    rcases hh with ⟨-, hh⟩ | hh
    · exact .inr ⟨_, hrest ▸ hh⟩
    · exact .inr ⟨_, hrest ▸ hh⟩
  | writeReq bs rest hp hh => exact .inr ⟨_, hh⟩
  | writeResp bs rest hp hh => exact .inr ⟨_, hh⟩
  | sent hp hl => exact .inl (exchange_host _ s)
  | _ => exact .inl rfl

theorem StepCase.noReset {s t : State} (h : StepCase s t) (hs : noReset s.host) : noReset t.host := by
  rcases h.host with hh | ⟨m, hh⟩
  · exact hh ▸ hs
  · rw [hh] at hs
    exact ⟨fun hm => hs.1 (.tail _ hm), fun hm => hs.2 (.tail _ hm)⟩

theorem not_resetDue_of_noReset {s : State} (h : noReset s.host) : ¬ resetDue s := by
  rintro ⟨-, rest, hh | hh⟩
  · exact h.1 (by simp [hh])
  · exact h.2 (by simp [hh])

/-! ### One step and runs -/

theorem toggle_eq_add_one (b : Bit) : toggle b = b + 1#1 := by
  revert b; decide

/-- SEQ moves by the number of deliveries of one step, 0 or 1. -/
theorem StepCase.seq_eq_add_deliveries {s t : State} (h : StepCase s t) (hs : OutcomeFits s) (hr : Machine.noReset s.host) :
    ∃ n : Nat, Machine.deliveries t = Machine.deliveries s + n ∧ t.seq = s.seq + BitVec.ofNat 1 n := by
  obtain ⟨hone, hnone⟩ := h.deliveries hs
  rcases h.seq (not_resetDue_of_noReset hr) with ⟨hd, hseq⟩ | ⟨hd, hseq⟩
  · exact ⟨1, hone hd, hseq.trans (toggle_eq_add_one _)⟩
  · exact ⟨0, hnone hd, by simpa using hseq⟩

theorem run_seq_eq_add_deliveries {k : Nat} {s t : State} (hs : OutcomeFits s) (hr : noReset s.host)
    (h : Host.Core.run core k s = .next t) :
    ∃ n : Nat, deliveries t = deliveries s + n ∧ t.seq = s.seq + BitVec.ofNat 1 n := by
  induction k generalizing s with
  | zero => cases h; exact ⟨0, rfl, by simp⟩
  | succ k ih =>
    obtain ⟨u, hstep, hrun⟩ := run_first_step h
    obtain ⟨-, hcase⟩ := step_cases hstep
    obtain ⟨n, hn, hseqn⟩ := hcase.seq_eq_add_deliveries hs hr
    obtain ⟨m, hm, hseqm⟩ := ih (hcase.outcomeFits hs) (hcase.noReset hr) hrun
    exact ⟨n + m, by omega, by rw [hseqm, hseqn, BitVec.ofNat_add, BitVec.add_assoc]⟩

/-- Settles O55, by induction on the length of the run. -/
theorem seqCountsDeliveriesModTwo : Obligations.SeqCountsDeliveriesModTwo :=
  fun _ _ _ hs hr hrun => run_seq_eq_add_deliveries hs.outcomeFits hr hrun

end Sys2Proof.Machine
end

section
/-! SUPPORT. O43: TRANSCEIVE alone reads SEQ (10_state.md R14). The effects of the other instructions commute with a change of
SEQ, except for the two that write it: the delivery and RESET_SEQUENCE. -/

namespace Sys2Proof.Machine

/-- The state with another SEQ and everything else the same. -/
def State.withSeq (s : State) (b : Bit) : State := { s with seq := b }

/-- The effect does the same to everything else whatever SEQ holds, and keeps SEQ. -/
def IgnoresSeq (go : State → State) : Prop := ∀ (s : State) (b : Bit), go (s.withSeq b) = (go s).withSeq b

theorem IgnoresSeq.seq_eq {go : State → State} (h : IgnoresSeq go) (s : State) : (go s).seq = s.seq := by
  have hs : go s = (go s).withSeq s.seq := h s s.seq
  rw [hs]
  rfl

@[simp] theorem withSeq_params (s : State) (b : Bit) : (s.withSeq b).params = s.params := rfl
@[simp] theorem withSeq_rxBuf (s : State) (b : Bit) : (s.withSeq b).rxBuf = s.rxBuf := rfl
@[simp] theorem linkAnswer_withSeq (s : State) (b : Bit) : linkAnswer (s.withSeq b) = linkAnswer s := rfl

theorem withSeq_ite (p : Prop) [Decidable p] (s t : State) (b : Bit) :
    (if p then s else t).withSeq b = if p then s.withSeq b else t.withSeq b :=
  apply_ite (State.withSeq · b) p s t

/-! ### The effects that ignore SEQ -/

theorem ignoresSeq_raiseFail (e : TransceiveError) : IgnoresSeq (raiseFail e) := fun _ _ => rfl

theorem ignoresSeq_exchange (f : List Byte) : IgnoresSeq (exchange f) := by
  intro s b
  simp only [exchange, linkAnswer_withSeq, withSeq_params, withSeq_rxBuf, withSeq_ite]
  cases memWrite s.params.frameBufCap s.rxBuf 0 (linkAnswer s).bytes with
  | none => rfl
  | some rx => rfl

theorem ignoresSeq_transmit (f : List Byte) : IgnoresSeq (transmit f) := by
  intro s b
  simp only [transmit, ignoresSeq_exchange f s b, withSeq_params, withSeq_ite]
  rfl

theorem ignoresSeq_answerWtx (payload : List Byte) : IgnoresSeq (answerWtx payload) := by
  intro s b
  cases payload with
  | nil => rfl
  | cons m rest =>
    rw [answerWtx_cons, answerWtx_cons, withSeq_ite, withSeq_ite]
    rfl

theorem ignoresSeq_encodeI (q : Bit) (payload : List Byte) : IgnoresSeq (commandEffect (.encodeI q payload)) := by
  intro s b
  simp only [commandEffect, withSeq_ite]
  rfl

theorem ignoresSeq_encodeWtxAck (m : Byte) : IgnoresSeq (commandEffect (.encodeWtxAck m)) := fun _ _ => rfl

theorem ignoresSeq_decode (raw : List Byte) : IgnoresSeq (commandEffect (.decode raw)) := fun _ _ => rfl

/-! ### Instructions -/

theorem inPhase_withSeq {p : Phase} {s t : State} {go : State → State} (hg : IgnoresSeq go)
    (h : inPhase p s go = .next t) (b : Bit) :
    inPhase p (s.withSeq b) go = .next (t.withSeq b) ∧ t.seq = s.seq := by
  obtain ⟨hf, hp, rfl⟩ := inPhase_eq_next h
  exact ⟨(inPhase_of_phase (s := s.withSeq b) go hf hp).trans (congrArg _ (hg s b)), hg.seq_eq s⟩

theorem live_withSeq {s t : State} {go : State → State} (hg : IgnoresSeq go) (h : live s go = .next t) (b : Bit) :
    live (s.withSeq b) go = .next (t.withSeq b) ∧ t.seq = s.seq := by
  obtain ⟨hf, rfl⟩ := live_eq_next h
  exact ⟨(live_of_live (s := s.withSeq b) go hf).trans (congrArg _ (hg s b)), hg.seq_eq s⟩

/-- Beside TRANSCEIVE, RESET_SEQUENCE and a received I-block no instruction reads or writes SEQ. -/
theorem exec_withSeq {i : Instr} {s t : State} (hT : ∀ n k, i ≠ .transceive n k) (hR : i ≠ .resetSequence)
    (hI : ∀ flags seq payload, i ≠ .iBlockRx flags seq payload) (h : exec i s = .next t) (b : Bit) :
    exec i (s.withSeq b) = .next (t.withSeq b) ∧ t.seq = s.seq := by
  cases i with
  | iBlockTxSeq0 payload => exact inPhase_withSeq (ignoresSeq_transmit _) h b
  | iBlockTxSeq1 payload => exact inPhase_withSeq (ignoresSeq_transmit _) h b
  | sWtxAckTx m => exact inPhase_withSeq (ignoresSeq_transmit _) h b
  | iBlockRx flags seq payload => exact absurd rfl (hI flags seq payload)
  | unclassifiedRx low body => exact inPhase_withSeq (ignoresSeq_raiseFail _) h b
  | rBlockRx low body => exact inPhase_withSeq (ignoresSeq_raiseFail _) h b
  | sWtxRx payload => exact inPhase_withSeq (ignoresSeq_answerWtx payload) h b
  | sOtherRx low body => exact inPhase_withSeq (ignoresSeq_raiseFail _) h b
  | transceive n k => exact absurd rfl (hT n k)
  | resetSequence => exact absurd rfl hR
  | encodeI q payload => exact live_withSeq (ignoresSeq_encodeI q payload) h b
  | encodeWtxAck m => exact live_withSeq (ignoresSeq_encodeWtxAck m) h b
  | decode raw => exact live_withSeq (ignoresSeq_decode raw) h b

/-- A received I-block is delivered and toggles SEQ, or is too large and keeps it, whatever SEQ holds (41_session.md R75). -/
theorem exec_iBlockRx_withSeq {flags : BitVec 5} {seq : Bit} {payload : List Byte} {s t : State}
    (h : exec (.iBlockRx flags seq payload) s = .next t) (b : Bit) :
    (t.phase = .delivered ∧ exec (.iBlockRx flags seq payload) (s.withSeq b) = .next (t.withSeq (toggle b))) ∨
    (t.seq = s.seq ∧ exec (.iBlockRx flags seq payload) (s.withSeq b) = .next (t.withSeq b)) := by
  rw [exec_iBlockRx] at h
  obtain ⟨hf, hp, rfl⟩ := inPhase_eq_next h
  rw [exec_iBlockRx, inPhase_of_phase (s := s.withSeq b) _ hf hp, acceptResponse_eq, acceptResponse_eq]
  by_cases hl : s.maxResp < payload.length
  · rw [if_pos hl]
    exact .inr ⟨rfl, congrArg _ (if_pos hl)⟩
  · rw [if_neg hl]
    exact .inl ⟨rfl, congrArg _ (if_neg hl)⟩

/-- RESET_SEQUENCE clears SEQ in IDLE and records its usage fault elsewhere, whatever SEQ holds (41_session.md R87). -/
theorem exec_resetSequence_withSeq {s t : State} (h : exec .resetSequence s = .next t) (b : Bit) :
    (s.phase = .idle ∧ exec .resetSequence (s.withSeq b) = .next (t.withSeq 0)) ∨
    (t.seq = s.seq ∧ exec .resetSequence (s.withSeq b) = .next (t.withSeq b)) := by
  rw [exec_resetSequence] at h
  obtain ⟨hf, rfl⟩ := live_eq_next h
  rw [exec_resetSequence, live_of_live (s := s.withSeq b) _ hf]
  simp only [commandEffect]
  by_cases hp : s.phase = .idle
  · rw [if_pos hp]
    exact .inl ⟨hp, congrArg _ (if_pos hp)⟩
  · rw [if_neg hp]
    exact .inr ⟨rfl, congrArg _ (if_neg hp)⟩

/-- Settles O43: the delivery and RESET_SEQUENCE write SEQ without reading more than the bit they toggle, and every other
instruction commutes with a change of SEQ. -/
theorem onlyTransceiveReadsSeq : Obligations.OnlyTransceiveReadsSeq := by
  intro s t i b hT h
  by_cases hI : ∃ flags seq payload, i = .iBlockRx flags seq payload
  · obtain ⟨flags, seq, payload, rfl⟩ := hI
    rcases exec_iBlockRx_withSeq h b with ⟨hp, hb⟩ | ⟨hseq, hb⟩
    · exact ⟨toggle b, hb, .inl ⟨⟨flags, seq, payload, rfl⟩, hp, rfl⟩⟩
    · exact ⟨b, hb, .inr (.inr ⟨hseq, rfl⟩)⟩
  · by_cases hR : i = .resetSequence
    · subst hR
      rcases exec_resetSequence_withSeq h b with ⟨hp, hb⟩ | ⟨hseq, hb⟩
      · exact ⟨0, hb, .inr (.inl ⟨rfl, hp, rfl⟩)⟩
      · exact ⟨b, hb, .inr (.inr ⟨hseq, rfl⟩)⟩
    · have hI' : ∀ flags seq payload, i ≠ .iBlockRx flags seq payload := by simpa using hI
      obtain ⟨hb, hseq⟩ := exec_withSeq hT hR hI' h b
      exact ⟨b, hb, .inr (.inr ⟨hseq, rfl⟩)⟩

end Sys2Proof.Machine
end

section
/-! SUPPORT. O29: a step runs the decoded instruction (10_state.md R11). The caller's move that is due is what is fetched; with
none due it is the frame in TX_BUF or in RX_BUF, as the phase says. -/

namespace Sys2Proof.Machine

theorem step_of_callerMove {s : State} {f : Fetched} (hf : s.fault = []) (h : callerMove s = some f) :
    step s = runFetched f := by
  rw [step, fetch, if_pos hf, h]
  rfl

theorem step_of_blockMove {s : State} (hf : s.fault = []) (h : callerMove s = none) :
    step s = runFetched (blockMove s) := by
  rw [step, fetch, if_pos hf, h]
  rfl

/-- An operation that waits for IDLE is due there. -/
theorem callerMove_issue {s : State} {c : Command} {rest : List HostMove} (hh : s.host = .issue c :: rest)
    (hp : s.phase = .idle) : callerMove s = some (.instr c.toInstr { s with host := rest }) := by
  simp [callerMove, hh, hp]

/-- A call that does not wait runs its operation, unless it is a codec operation outside IDLE (42_interfaces.md R97). -/
theorem callNow_eq_instr {c : Command} {s : State}
    (h : s.phase = .idle ∨ (∃ n k : Nat, c = .transceive n k) ∨ c = .resetSequence) : callNow c s = .instr c.toInstr s := by
  rcases h with hp | ⟨n, k, rfl⟩ | rfl
  · exact if_pos hp
  · exact ite_self _
  · exact ite_self _

theorem callerMove_issueNow {s : State} {c : Command} {rest : List HostMove} (hh : s.host = .issueNow c :: rest) :
    callerMove s = some (callNow c { s with host := rest }) := by
  simp only [callerMove, hh]

/-- The frame in TX_BUF, if it is one that the phase transmits (41_session.md R69, R78). -/
theorem fetchTx_eq_instr {s : State} {i : Instr} (hl : txCount s ≤ s.params.frameBufCap)
    (hd : decodeTx (crcOf s) (readBytes s.txBuf 0 (txCount s)) = .ok i) (hi : txPhase i = some s.phase) :
    fetchTx s = .instr i s := by
  simp only [fetchTx, memRead_zero, hl, hd, hi, if_true]

/-- The frame in RX_BUF, if the reception passes the checks of status and length (41_session.md R70 to R74). -/
theorem fetchRx_eq_instr {s : State} {i : Instr} (hok : s.rxStatus = .success) (hbits : 24 ≤ s.rxBits)
    (hl : s.rxBits / 8 ≤ s.params.frameBufCap) (hd : decodeRx (crcOf s) (readBytes s.rxBuf 0 (s.rxBits / 8)) = .ok i) :
    fetchRx s = .instr i s := by
  have hshort : rxTooShort s.rxBits = false := decide_eq_false (Nat.not_lt.2 hbits)
  simp [fetchRx, hok, linkOk, hshort, memRead_zero, byteCount, hl, hd]

/-- Settles O29, by what is fetched in each of the five ways. -/
theorem stepRunsTheDecodedInstruction : Obligations.StepRunsTheDecodedInstruction := by
  intro s hf
  refine ⟨?issue, ?issueNow, ?sending, ?retry, ?received⟩
  case issue =>
    intro c rest hh hp
    exact step_of_callerMove hf (callerMove_issue hh hp)
  case issueNow =>
    intro c rest hh hc
    have hcall : callNow c { s with host := rest } = .instr c.toInstr { s with host := rest } := callNow_eq_instr hc
    rw [step_of_callerMove hf (callerMove_issueNow hh), hcall]
    rfl
  case sending =>
    intro i hm hp hl hd hi
    have hn : txCount s = s.txLen := by simp [txCount, hp]
    have hb : blockMove s = fetchTx s := by simp only [blockMove, hp]
    rw [step_of_blockMove hf hm, hb, fetchTx_eq_instr (by rwa [hn]) (by rwa [hn]) (by rwa [hp])]
    rfl
  case retry =>
    intro i hm hp hok hd hi
    have hn : txCount s = 4 := by simp [txCount, hp, ackLen]
    have hb : blockMove s = fetchTx s := by simp only [blockMove, hp]
    rw [step_of_blockMove hf hm, hb, fetchTx_eq_instr (by rwa [hn]) (by rwa [hn]) (by rwa [hp])]
    rfl
  case received =>
    intro i hm hp hok hbits hl hd
    have hb : blockMove s = fetchRx s := by simp only [blockMove, hp]
    rw [step_of_blockMove hf hm, hb, fetchRx_eq_instr hok hbits hl hd]
    rfl

end Sys2Proof.Machine
end

section
/-! SUPPORT. O51: a caller and a link that keep their duties never make the block record a usage fault (60_exceptions.md
R101). Each cause of a usage fault is excluded by one premise: the calls by the caller's duties, the breach of the link's
contract and the overlong answer by the link's, the accesses outside TX_BUF and RX_BUF by the invariant (20_memory.md R29).
That a step keeps the invariant is shown part by part: parameters, buffers and outcome from above, the rest here. -/

namespace Sys2Proof.Machine

/-! ### The invariant of an attempt in progress -/

/-- The part of StateInv that speaks of an attempt in progress (10_state.md R20, R21, R23; 41_session.md R81). -/
structure AttemptInv (s : State) : Prop where
  wtxBound : inAttempt s.phase = true → s.wtxCnt ≤ wtxCap
  noOutcome : inAttempt s.phase = true → s.outcome = none
  sendingFrame : s.phase = .sending → ∃ payload : List Byte, payload.length ≤ s.params.maxFramePayload ∧
    s.txLen = payload.length + 3 ∧ readBytes s.txBuf 0 s.txLen = encodeIFrame (crcOf s) s.seq payload
  retryFrame : s.phase = .wtxRetry → s.txLen = 4 ∧ 0 < s.wtxCnt ∧
    ∃ m : Byte, readBytes s.txBuf 0 4 = encodeWtxAckFrame (crcOf s) m
  rxBound : s.phase = .awaitingResponse → s.rxBits ≤ s.params.rxCapBits

/-- The invariant is the conjunction of its parts. -/
theorem stateInv_iff {s : State} : StateInv s ↔ s.params.ok ∧ BuffersWf s ∧ OutcomeFits s ∧ AttemptInv s := by
  constructor
  · intro h
    exact ⟨h.params, h.buffers, h.outcomeFits, h.wtxBound, h.noOutcome, h.sendingFrame, h.retryFrame, h.rxBound⟩
  · rintro ⟨hp, hb, ho, ha⟩
    exact ⟨hp, hb, ha.wtxBound, ha.noOutcome, ho.delivered, ho.failed, ha.sendingFrame, ha.retryFrame, ha.rxBound⟩

theorem attemptInv_of_not_inAttempt {s : State} (hp : inAttempt s.phase = false) : AttemptInv s where
  wtxBound h := by simp [hp] at h
  noOutcome h := by simp [hp] at h
  sendingFrame h := by simp [h, inAttempt] at hp
  retryFrame h := by simp [h, inAttempt] at hp
  rxBound h := by simp [h, inAttempt] at hp

/-- TRANSCEIVE leaves the I-block of the current SEQ in TX_BUF (41_session.md R68). -/
theorem attemptInv_startAttempt {s : State} {n : Nat} (k : Nat) (hw : s.txBuf.wf = true)
    (hn : n ≤ s.params.maxFramePayload) :
    AttemptInv (startAttempt (writeBytes s.txBuf 0 (requestFrame n s)) n k s) where
  wtxBound _ := Nat.zero_le _
  noOutcome _ := rfl
  sendingFrame _ := by
    have hlen : (requestFrame n s).length = n + 3 := by simp [requestFrame]
    have hread := readBytes_writeBytes 0 (requestFrame n s) hw
    rw [hlen] at hread
    exact ⟨readBytes s.reqBuf 0 n, by simpa using hn, by simp [txLenOf], hread⟩
  retryFrame hp := by cases hp
  rxBound hp := by cases hp

/-- Rule R76 leaves an acknowledgement in TX_BUF and the counter within WTX_CAP (41_session.md R81). -/
theorem attemptInv_queueAck {s : State} (m : Byte) (h : AttemptInv s) (hw : s.txBuf.wf = true)
    (hp : inAttempt s.phase = true) (hn : s.wtxCnt ≠ wtxCap) :
    AttemptInv (queueAck (writeBytes s.txBuf 0 (encodeWtxAckFrame (crcOf s) m)) s) where
  wtxBound _ := Nat.lt_of_le_of_ne (h.wtxBound hp) hn
  noOutcome _ := h.noOutcome hp
  sendingFrame hp := by cases hp
  retryFrame _ := ⟨rfl, Nat.succ_pos _, m, readBytes_writeBytes 0 (encodeWtxAckFrame (crcOf s) m) hw⟩
  rxBound hp := by cases hp

/-- An exchange latches no more bits than RX_BUF holds, and otherwise stays in its phase (42_interfaces.md R92 (c)). -/
theorem attemptInv_exchange (f : List Byte) {s : State} (h : AttemptInv s) (hp : inAttempt s.phase = true) :
    AttemptInv (exchange f s) := by
  have hstay (u : UsageFault) : AttemptInv (raiseFault u (callLink f s)) :=
    ⟨h.wtxBound, h.noOutcome, h.sendingFrame, h.retryFrame, h.rxBound⟩
  rcases exchange_cases f s with ⟨-, he⟩ | ⟨-, -, he⟩ | ⟨hbits, -, he⟩
  · exact he ▸ hstay _
  · exact he ▸ hstay _
  · rw [he]
    exact {
      wtxBound := fun _ => h.wtxBound hp
      noOutcome := fun _ => h.noOutcome hp
      sendingFrame := nofun
      retryFrame := nofun
      rxBound := fun _ => hbits }

theorem CommandCase.attemptInv {s t : State} {c : Command} (h : CommandCase s c t) (hw : s.txBuf.wf = true)
    (hs : AttemptInv s) : AttemptInv t := by
  cases h with
  | started n k hp hn hl => exact attemptInv_startAttempt k hw hn
  | cleared hp => exact attemptInv_of_not_inAttempt (by simp [hp, inAttempt])
  | _ => exact ⟨hs.wtxBound, hs.noOutcome, hs.sendingFrame, hs.retryFrame, hs.rxBound⟩

theorem StepCase.attemptInv {s t : State} (h : StepCase s t) (hw : s.txBuf.wf = true) (hs : AttemptInv s) :
    AttemptInv t := by
  cases h with
  | command c rest _ hh ht he =>
    exact ht.attemptInv hw ⟨hs.wtxBound, hs.noOutcome, hs.sendingFrame, hs.retryFrame, hs.rxBound⟩
  | sent hp hl => exact attemptInv_exchange _ hs (by rcases hp with hp | hp <;> simp [hp, inAttempt])
  | failed e hp => exact attemptInv_of_not_inAttempt rfl
  | delivered payload hp hl => exact attemptInv_of_not_inAttempt rfl
  | acknowledged m hp hn h4 => exact attemptInv_queueAck m hs hw (by simp [hp, inAttempt]) hn
  | reported hp => exact attemptInv_of_not_inAttempt rfl
  | _ => exact ⟨hs.wtxBound, hs.noOutcome, hs.sendingFrame, hs.retryFrame, hs.rxBound⟩

/-- Every step keeps the invariant, whatever the caller and the link do. -/
theorem StepCase.stateInv {s t : State} (h : StepCase s t) (hs : StateInv s) : StateInv t := by
  obtain ⟨hok, hbuf, hout, hatt⟩ := stateInv_iff.1 hs
  exact stateInv_iff.2 ⟨h.params ▸ hok, h.buffersWf hbuf, h.outcomeFits hout, h.attemptInv hbuf.tx hatt⟩

/-! ### The invariant keeps the block's accesses inside its buffers (20_memory.md R29) -/

theorem StateInv.txCount_le {s : State} (h : StateInv s) (hp : s.phase = .sending ∨ s.phase = .wtxRetry) :
    txCount s ≤ s.params.frameBufCap := by
  have hok : 4 ≤ s.params.frameBufCap := h.params
  rcases hp with hp | hp
  · obtain ⟨payload, hfit, hlen, -⟩ := h.sendingFrame hp
    have hcount : txCount s = s.txLen := by simp [txCount, hp]
    unfold Params.maxFramePayload at hfit
    omega
  · have hcount : txCount s = 4 := by simp [txCount, hp, ackLen]
    omega

theorem StateInv.rxCount_le {s : State} (h : StateInv s) (hp : s.phase = .awaitingResponse) :
    s.rxBits / 8 ≤ s.params.frameBufCap :=
  Nat.div_le_of_le_mul (h.rxBound hp)

/-! ### The duties of the caller -/

/-- An operation in IDLE that meets its size precondition records no usage fault (41_session.md R67, R87; 40_frame_codec.md R56). -/
theorem commandEffect_fault {c : Command} {s : State} (hok : s.params.ok) (hp : s.phase = .idle)
    (hc : c.toInstr.wellFormed s.params = true) : (commandEffect c s).fault = s.fault := by
  have h4 : 4 ≤ s.params.frameBufCap := hok
  cases c with
  | transceive n k =>
    have hn : n ≤ s.params.frameBufCap - 3 := of_decide_eq_true hc
    have hsize : requestTooLarge s.params n = false := (requestTooLarge_false_iff _ _).2 hn
    rw [commandEffect, if_pos ⟨hp, hsize⟩, beginAttempt_eq, if_pos (by omega)]
    rfl
  | resetSequence => rw [commandEffect, if_pos hp]
  | encodeI q payload =>
    have hsize : requestTooLarge s.params payload.length = false := (requestTooLarge_false_iff _ _).2 (of_decide_eq_true hc)
    simp [commandEffect, hsize]
  | encodeWtxAck m => rfl
  | decode raw => rfl

/-- What is due of a caller that keeps its duties is an operation in IDLE that meets its size precondition. -/
theorem callerKeeps.due {s : State} {c : Command} {rest : List HostMove} (hk : callerKeeps s)
    (h : s.phase = .idle ∧ s.host = .issue c :: rest ∨ s.host = .issueNow c :: rest) :
    s.phase = .idle ∧ c.toInstr.wellFormed s.params = true := by
  obtain ⟨hcalls, hsizes⟩ := hk
  rcases h with ⟨hp, hh⟩ | hh
  · exact ⟨hp, hsizes c (by simp [hh])⟩
  · exact absurd (by simp [hh]) (hcalls c)

/-- The moves to come are among those there were, so the caller's duties go on. -/
theorem StepCase.callerKeeps {s t : State} (h : StepCase s t) (hs : callerKeeps s) : callerKeeps t := by
  obtain ⟨hcalls, hsizes⟩ := hs
  have hsub : ∀ m ∈ t.host, m ∈ s.host := by
    rcases h.host with hh | ⟨m, hh⟩
    · simp [hh]
    · rw [hh]; exact fun _ => List.mem_cons_of_mem m
  refine ⟨fun c hc => hcalls c (hsub _ hc), fun c hc => ?_⟩
  rw [h.params]
  exact hsizes c (hsub _ hc)

/-! ### The duties of the link -/

@[simp] theorem exchange_linkAnswers (f : List Byte) (s : State) : (exchange f s).linkAnswers = s.linkAnswers.tail := by
  rcases exchange_cases f s with ⟨-, h⟩ | ⟨-, -, h⟩ | ⟨-, -, h⟩ <;> rw [h] <;> rfl

/-- A step takes at most the first of the link's coming answers (log entry 4). -/
theorem StepCase.linkAnswers {s t : State} (h : StepCase s t) :
    t.linkAnswers = s.linkAnswers ∨ t.linkAnswers = s.linkAnswers.tail := by
  cases h with
  | command c rest _ hh ht he => exact .inl (by cases ht <;> rfl)
  | sent hp hl => exact .inr (exchange_linkAnswers _ s)
  | _ => exact .inl rfl

theorem StepCase.linkKeeps {s t : State} (h : StepCase s t) (hs : linkKeeps s) : linkKeeps t := by
  intro a ha
  rw [h.params]
  rcases h.linkAnswers with hl | hl
  · exact hs a (hl ▸ ha)
  · exact hs a (List.mem_of_mem_tail (hl ▸ ha))

/-! ### No usage fault -/

/-- The one cause of each usage fault is excluded (60_exceptions.md R101). -/
theorem StepCase.fault {s t : State} (h : StepCase s t) (hs : StateInv s) (hc : Machine.callerKeeps s)
    (hl : Machine.linkKeeps s) : t.fault = s.fault := by
  cases h with
  | command c rest _ hh ht he =>
    obtain ⟨hp, hw⟩ := hc.due hh
    rw [he hp]
    exact commandEffect_fault hs.params hp hw
  | sent hp hcount =>
    rw [exchange_of_keeps _ (linkAnswer_keeps hl)]
    rfl
  | sentOutside hp hcount => exact absurd (hs.txCount_le hp) (Nat.not_le.2 hcount)
  | receivedOutside hp hcount => exact absurd (hs.rxCount_le hp) (Nat.not_le.2 hcount)
  | acknowledgedOutside hp h4 => exact absurd hs.params (Nat.not_le.2 h4)
  | _ => rfl

/-- Settles O51, by the cases of a step. -/
theorem dutifulCallerAndLinkNeverFault : Obligations.DutifulCallerAndLinkNeverFault := by
  intro s hs hf hc hl
  have hcase := stepEffect_case s
  exact ⟨stepEffect s, step_of_live hf, (hcase.fault hs hc hl).trans hf, hcase.stateInv hs, hcase.callerKeeps hc,
    hcase.linkKeeps hl⟩

end Sys2Proof.Machine
end

section
/-! SUPPORT. O44: RESP_BUF is written by the delivery and by the caller in IDLE (20_memory.md R27). -/

namespace Sys2Proof.Machine

@[simp] theorem exchange_respBuf (f : List Byte) (s : State) : (exchange f s).respBuf = s.respBuf := by
  rcases exchange_cases f s with ⟨-, h⟩ | ⟨-, -, h⟩ | ⟨-, -, h⟩ <;> rw [h] <;> rfl

theorem CommandCase.respBuf {s t : State} {c : Command} (h : CommandCase s c t) : t.respBuf = s.respBuf := by
  cases h <;> rfl

/-- Settles O44, by the cases of a step. -/
theorem respBufHasOneWriter : Obligations.RespBufHasOneWriter := by
  intro s t hstep
  obtain ⟨-, hcase⟩ := step_cases hstep
  cases hcase with
  | command c rest _ hh ht he => exact .inr (.inr ht.respBuf)
  | writeResp bs rest hp hh => exact .inr (.inl ⟨hp, bs, rest, hh⟩)
  | sent hp hl => exact .inr (.inr (exchange_respBuf _ s))
  | delivered payload hp hl => exact .inl ⟨hp, rfl⟩
  | _ => exact .inr (.inr rfl)

end Sys2Proof.Machine
end

section
/-! SUPPORT. O45: no instruction writes REQ_BUF and TRANSCEIVE alone reads it (20_memory.md R28). The effect of every other
instruction commutes with a change of REQ_BUF, and an effect that does so keeps REQ_BUF. -/

namespace Sys2Proof.Machine

/-- The state with another REQ_BUF and everything else the same. -/
def State.withReqBuf (s : State) (m : Memory) : State := { s with reqBuf := m }

/-- The effect does the same to everything else whatever REQ_BUF holds, and keeps REQ_BUF. -/
def IgnoresReqBuf (go : State → State) : Prop :=
  ∀ (s : State) (m : Memory), go (s.withReqBuf m) = (go s).withReqBuf m

theorem IgnoresReqBuf.reqBuf_eq {go : State → State} (h : IgnoresReqBuf go) (s : State) : (go s).reqBuf = s.reqBuf := by
  have hs : go s = (go s).withReqBuf s.reqBuf := h s s.reqBuf
  rw [hs]
  rfl

@[simp] theorem withReqBuf_params (s : State) (m : Memory) : (s.withReqBuf m).params = s.params := rfl
@[simp] theorem withReqBuf_rxBuf (s : State) (m : Memory) : (s.withReqBuf m).rxBuf = s.rxBuf := rfl
@[simp] theorem linkAnswer_withReqBuf (s : State) (m : Memory) : linkAnswer (s.withReqBuf m) = linkAnswer s := rfl

theorem withReqBuf_ite (p : Prop) [Decidable p] (s t : State) (m : Memory) :
    (if p then s else t).withReqBuf m = if p then s.withReqBuf m else t.withReqBuf m :=
  apply_ite (State.withReqBuf · m) p s t

/-! ### The effects that ignore REQ_BUF -/

theorem ignoresReqBuf_raiseFail (e : TransceiveError) : IgnoresReqBuf (raiseFail e) := fun _ _ => rfl

theorem ignoresReqBuf_exchange (f : List Byte) : IgnoresReqBuf (exchange f) := by
  intro s m
  simp only [exchange, linkAnswer_withReqBuf, withReqBuf_params, withReqBuf_rxBuf, withReqBuf_ite]
  cases memWrite s.params.frameBufCap s.rxBuf 0 (linkAnswer s).bytes with
  | none => rfl
  | some rx => rfl

theorem ignoresReqBuf_transmit (f : List Byte) : IgnoresReqBuf (transmit f) := by
  intro s m
  simp only [transmit, ignoresReqBuf_exchange f s m, withReqBuf_params, withReqBuf_ite]
  rfl

theorem ignoresReqBuf_acceptResponse (payload : List Byte) : IgnoresReqBuf (acceptResponse payload) := by
  intro s m
  rw [acceptResponse_eq, acceptResponse_eq, withReqBuf_ite]
  rfl

theorem ignoresReqBuf_answerWtx (payload : List Byte) : IgnoresReqBuf (answerWtx payload) := by
  intro s m
  cases payload with
  | nil => rfl
  | cons mult rest =>
    rw [answerWtx_cons, answerWtx_cons, withReqBuf_ite, withReqBuf_ite]
    rfl

/-- TRANSCEIVE is the one operation of the command port that reads REQ_BUF. -/
theorem ignoresReqBuf_commandEffect {c : Command} (hc : ∀ n k, c ≠ .transceive n k) :
    IgnoresReqBuf (commandEffect c) := by
  intro s m
  cases c with
  | transceive n k => exact absurd rfl (hc n k)
  | resetSequence =>
    simp only [commandEffect, withReqBuf_ite]
    rfl
  | encodeI q payload =>
    simp only [commandEffect, withReqBuf_ite]
    rfl
  | encodeWtxAck mult => rfl
  | decode raw => rfl

/-! ### Instructions -/

theorem CommandCase.reqBuf {s t : State} {c : Command} (h : CommandCase s c t) : t.reqBuf = s.reqBuf := by
  cases h <;> rfl

/-- An operation of the command port keeps REQ_BUF, TRANSCEIVE included. -/
theorem exec_command_reqBuf {c : Command} {s t : State} (h : exec c.toInstr s = .next t) : t.reqBuf = s.reqBuf := by
  rw [exec_command] at h
  obtain ⟨-, rfl⟩ := live_eq_next h
  exact (commandEffect_case c s).reqBuf

theorem inPhase_withReqBuf {p : Phase} {s t : State} {go : State → State} (hg : IgnoresReqBuf go)
    (h : inPhase p s go = .next t) (m : Memory) :
    inPhase p (s.withReqBuf m) go = .next (t.withReqBuf m) ∧ t.reqBuf = s.reqBuf := by
  obtain ⟨hf, hp, rfl⟩ := inPhase_eq_next h
  exact ⟨(inPhase_of_phase (s := s.withReqBuf m) go hf hp).trans (congrArg _ (hg s m)), hg.reqBuf_eq s⟩

theorem exec_command_withReqBuf {c : Command} {s t : State} (hc : ∀ n k, c ≠ .transceive n k)
    (h : exec c.toInstr s = .next t) (m : Memory) :
    exec c.toInstr (s.withReqBuf m) = .next (t.withReqBuf m) ∧ t.reqBuf = s.reqBuf := by
  refine ⟨?_, exec_command_reqBuf h⟩
  rw [exec_command] at h ⊢
  obtain ⟨hf, rfl⟩ := live_eq_next h
  exact (live_of_live (s := s.withReqBuf m) _ hf).trans (congrArg _ (ignoresReqBuf_commandEffect hc s m))

/-- Beside TRANSCEIVE no instruction reads or writes REQ_BUF. -/
theorem exec_withReqBuf {i : Instr} {s t : State} (hT : ∀ n k, i ≠ .transceive n k) (h : exec i s = .next t)
    (m : Memory) : exec i (s.withReqBuf m) = .next (t.withReqBuf m) ∧ t.reqBuf = s.reqBuf := by
  cases i with
  | iBlockTxSeq0 payload => exact inPhase_withReqBuf (ignoresReqBuf_transmit _) h m
  | iBlockTxSeq1 payload => exact inPhase_withReqBuf (ignoresReqBuf_transmit _) h m
  | sWtxAckTx mult => exact inPhase_withReqBuf (ignoresReqBuf_transmit _) h m
  | iBlockRx flags seq payload => exact inPhase_withReqBuf (ignoresReqBuf_acceptResponse payload) h m
  | unclassifiedRx low body => exact inPhase_withReqBuf (ignoresReqBuf_raiseFail _) h m
  | rBlockRx low body => exact inPhase_withReqBuf (ignoresReqBuf_raiseFail _) h m
  | sWtxRx payload => exact inPhase_withReqBuf (ignoresReqBuf_answerWtx payload) h m
  | sOtherRx low body => exact inPhase_withReqBuf (ignoresReqBuf_raiseFail _) h m
  | transceive n k => exact absurd rfl (hT n k)
  | resetSequence => exact exec_command_withReqBuf (c := .resetSequence) nofun h m
  | encodeI q payload => exact exec_command_withReqBuf (c := .encodeI q payload) nofun h m
  | encodeWtxAck mult => exact exec_command_withReqBuf (c := .encodeWtxAck mult) nofun h m
  | decode raw => exact exec_command_withReqBuf (c := .decode raw) nofun h m

/-- Settles O45: TRANSCEIVE keeps REQ_BUF, and every other instruction commutes with a change of it. -/
theorem reqBufIsReadByTransceiveOnly : Obligations.ReqBufIsReadByTransceiveOnly := by
  intro s t i h
  by_cases hi : ∃ n k, i = .transceive n k
  · obtain ⟨n, k, rfl⟩ := hi
    exact ⟨exec_command_reqBuf (c := .transceive n k) h, fun hT => absurd rfl (hT n k)⟩
  · have hT : ∀ n k, i ≠ .transceive n k := fun n k hc => hi ⟨n, k, hc⟩
    exact ⟨(exec_withReqBuf hT h s.reqBuf).2, fun _ m => (exec_withReqBuf hT h m).1⟩

end Sys2Proof.Machine
end

section
/-! SUPPORT. O19 and O22: an access outside a buffer is not performed, and OutOfBounds is recorded (20_memory.md R29, decision
D12). -/

namespace Sys2Proof.Machine

/-- The first usage fault of a block is the only one it records. -/
theorem raiseFault_of_live (u : UsageFault) {s : State} (h : s.fault = []) : raiseFault u s = { s with fault := [u] } := by
  rw [raiseFault, insertFault_of_empty h]

/-! ### A frame longer than TX_BUF -/

/-- In its phase, a frame that TX_BUF cannot hold is not sent. -/
theorem inPhase_transmit_outside {p : Phase} {s : State} {frame : List Byte} (hf : s.fault = []) (hp : s.phase = p)
    (hl : s.params.frameBufCap < frame.length) :
    inPhase p s (transmit frame) = .next { s with fault := [.outOfBounds] } := by
  rw [inPhase_of_phase _ hf hp, transmit, if_neg (Nat.not_le.2 hl), raiseFault_of_live _ hf]

/-- Settles O19: all three transmitted frames go through the one check of their length. -/
theorem frameLongerThanTxBufIsOutOfBounds : Obligations.FrameLongerThanTxBufIsOutOfBounds := by
  intro s hf
  refine ⟨fun hp payload hl => ⟨?_, ?_⟩, fun hp hl m => ?_⟩
  · exact inPhase_transmit_outside hf hp (by simpa using hl)
  · exact inPhase_transmit_outside hf hp (by simpa using hl)
  · exact inPhase_transmit_outside hf hp (by simpa using hl)

/-! ### A read outside TX_BUF or RX_BUF -/

/-- With no move of the caller due, the step is the block's own effect. -/
theorem step_of_no_callerMove {s : State} (hf : s.fault = []) (h : callerMove s = none) :
    step s = .next (blockEffect s) :=
  (step_of_blockMove hf h).trans (runFetched_blockMove hf)

theorem blockEffect_sending_outside {s : State} (hp : s.phase = .sending) (hl : s.params.frameBufCap < s.txLen) :
    blockEffect s = raiseFault .outOfBounds s := by
  have hcount : ¬ txCount s ≤ s.params.frameBufCap := by simpa [txCount, hp] using hl
  simp only [blockEffect, hp, sendEffect, if_neg hcount]

theorem blockEffect_awaiting_outside {s : State} (hp : s.phase = .awaitingResponse) (hok : s.rxStatus = .success)
    (hbits : 24 ≤ s.rxBits) (hl : s.params.frameBufCap < s.rxBits / 8) : blockEffect s = raiseFault .outOfBounds s := by
  have hstatus : linkOk s.rxStatus ≠ false := by simp [hok, linkOk]
  simp only [blockEffect, hp, receiveEffect, if_neg hstatus, if_neg (Nat.not_lt.2 hbits), if_neg (Nat.not_le.2 hl)]

/-- Settles O22, by the bound each of the two phases checks before it reads. -/
theorem outOfBoundsAccessIsRecorded : Obligations.OutOfBoundsAccessIsRecorded := by
  intro s hf hm
  rw [step_of_no_callerMove hf hm, ← raiseFault_of_live _ hf]
  exact ⟨fun hp hl => congrArg _ (blockEffect_sending_outside hp hl),
    fun hp hok hbits hl => congrArg _ (blockEffect_awaiting_outside hp hok hbits hl)⟩

end Sys2Proof.Machine
end

section
/-! SUPPORT. The PCB of a frame is its block type and its six low bits, and nothing else (30_encoding.md R44): the two fields
determine the byte, and the byte built from them gives them back. -/

namespace Sys2Proof

@[simp] theorem pcbType_pcbOf (type : BitVec 2) (low : BitVec 6) : pcbType (pcbOf type low) = type :=
  BitVec.extractLsb'_append_eq_left

@[simp] theorem pcbLow_pcbOf (type : BitVec 2) (low : BitVec 6) : pcbLow (pcbOf type low) = low :=
  BitVec.extractLsb'_append_eq_right

theorem pcbOf_pcbType_pcbLow (pcb : Byte) : pcbOf (pcbType pcb) (pcbLow pcb) = pcb :=
  (BitVec.extractLsb'_append_extractLsb'_eq_extractLsb' rfl).trans BitVec.extractLsb'_eq_self

/-- A byte of the given type is the PCB of that type and its own low bits. -/
theorem pcbOf_pcbLow {pcb : Byte} {type : BitVec 2} (h : pcbType pcb = type) : pcbOf type (pcbLow pcb) = pcb := by
  rw [← h, pcbOf_pcbType_pcbLow]

/-- pcb[5:1] and pcb[0] are the low bits of an I-block's PCB (30_encoding.md R46, R47). -/
theorem pcbFlags_append_pcbSeq (pcb : Byte) : pcbFlags pcb ++ pcbSeq pcb = pcbLow pcb :=
  BitVec.extractLsb'_append_extractLsb'_eq_extractLsb' rfl

theorem pcbFlags_pcbOf (type : BitVec 2) (flags : BitVec 5) (seq : Bit) :
    pcbFlags (pcbOf type (flags ++ seq)) = flags := by
  revert type flags seq; decide

theorem pcbSeq_pcbOf (type : BitVec 2) (flags : BitVec 5) (seq : Bit) :
    pcbSeq (pcbOf type (flags ++ seq)) = seq := by
  revert type flags seq; decide

/-- The S(WTX) selector looks at the low bits alone (30_encoding.md R48). -/
theorem isWtxPcb_pcbOf (type : BitVec 2) (low : BitVec 6) : isWtxPcb (pcbOf type low) = (low == wtxLow) := by
  revert type low; decide

/-- The block type by the value of the PCB: each type is one quarter of the 256 values. -/
theorem pcbType_eq_iff (pcb : Byte) (type : BitVec 2) : pcbType pcb = type ↔ pcb.toNat / 64 = type.toNat := by
  have hlt : pcb.toNat < 256 := pcb.isLt
  rw [← BitVec.toNat_inj, pcbType, BitVec.extractLsb'_toNat, Nat.shiftRight_eq_div_pow]
  omega

end Sys2Proof
end

section
/-! SUPPORT. O9: what is encoded decodes back on its own side of the link. The transmit side tells its three frames by the
whole PCB, the receive side tells the five classes by the block type and, below type 11, by the S(WTX) selector. -/

namespace Sys2Proof

/-! ### The transmit side -/

theorem decodeTx_encodeIFrame_zero (crc : CrcFun) (payload : List Byte) :
    decodeTx crc (encodeIFrame crc 0 payload) = .ok (.iBlockTxSeq0 payload) := by
  simp only [decodeTx, encodeIFrame, checkFrame_buildFrame, if_true]

theorem decodeTx_encodeIFrame_one (crc : CrcFun) (payload : List Byte) :
    decodeTx crc (encodeIFrame crc 1 payload) = .ok (.iBlockTxSeq1 payload) := by
  have hne : iBlockPcb 1 ≠ iBlockPcb 0 := by decide
  simp only [decodeTx, encodeIFrame, checkFrame_buildFrame, hne, if_true, if_false]

theorem decodeTx_encodeWtxAckFrame (crc : CrcFun) (m : Byte) :
    decodeTx crc (encodeWtxAckFrame crc m) = .ok (.sWtxAckTx m) := by
  have hne0 : wtxPcb ≠ iBlockPcb 0 := by decide
  have hne1 : wtxPcb ≠ iBlockPcb 1 := by decide
  simp only [decodeTx, encodeWtxAckFrame, checkFrame_buildFrame, hne0, hne1, if_true, if_false]

/-! ### The receive side: the PCB of a class is read as that class -/

theorem rxInstr_iBlock (flags : BitVec 5) (seq : Bit) (payload : List Byte) :
    rxInstr (pcbOf 0b00#2 (flags ++ seq)) payload = .iBlockRx flags seq payload := by
  simp [rxInstr, pcbFlags_pcbOf, pcbSeq_pcbOf]

theorem rxInstr_unclassified (low : BitVec 6) (body : List Byte) :
    rxInstr (pcbOf 0b01#2 low) body = .unclassifiedRx low body := by
  simp [rxInstr]

theorem rxInstr_rBlock (low : BitVec 6) (body : List Byte) :
    rxInstr (pcbOf 0b10#2 low) body = .rBlockRx low body := by
  simp [rxInstr]

theorem rxInstr_sWtx (payload : List Byte) : rxInstr wtxPcb payload = .sWtxRx payload := by
  have hpcb : pcbType wtxPcb = 0b11#2 ∧ isWtxPcb wtxPcb = true := by decide
  simp [rxInstr, hpcb]

theorem rxInstr_sOther {low : BitVec 6} (h : low ≠ wtxLow) (body : List Byte) :
    rxInstr (pcbOf 0b11#2 low) body = .sOtherRx low body := by
  simp [rxInstr, isWtxPcb_pcbOf, h]

/-! ### Both sides -/

theorem decodeInstr_tx {crc : CrcFun} {bytes : List Byte} {i : Instr} (h : decodeTx crc bytes = .ok i) :
    decodeInstr crc .tx bytes = some i := by
  rw [decodeInstr, h]; rfl

/-- On the receive side a built frame is the instruction its PCB names. -/
theorem decodeInstr_rx_buildFrame (crc : CrcFun) {pcb : Byte} {payload : List Byte} {i : Instr}
    (h : rxInstr pcb payload = i) : decodeInstr crc .rx (buildFrame crc pcb payload) = some i := by
  rw [decodeInstr, decodeRx_buildFrame, h]; rfl

/-- Settles O9, by the classes of frames; of well-formedness it needs only that an S_OTHER_RX is no S(WTX). -/
theorem encodedFramesDecodeBack : Obligations.EncodedFramesDecodeBack := by
  intro p crc i d hd hw
  cases i with
  | iBlockTxSeq0 payload => cases hd; exact ⟨_, rfl, decodeInstr_tx (decodeTx_encodeIFrame_zero crc payload)⟩
  | iBlockTxSeq1 payload => cases hd; exact ⟨_, rfl, decodeInstr_tx (decodeTx_encodeIFrame_one crc payload)⟩
  | sWtxAckTx m => cases hd; exact ⟨_, rfl, decodeInstr_tx (decodeTx_encodeWtxAckFrame crc m)⟩
  | iBlockRx flags seq payload =>
    cases hd; exact ⟨_, rfl, decodeInstr_rx_buildFrame crc (rxInstr_iBlock flags seq payload)⟩
  | unclassifiedRx low body => cases hd; exact ⟨_, rfl, decodeInstr_rx_buildFrame crc (rxInstr_unclassified low body)⟩
  | rBlockRx low body => cases hd; exact ⟨_, rfl, decodeInstr_rx_buildFrame crc (rxInstr_rBlock low body)⟩
  | sWtxRx payload => cases hd; exact ⟨_, rfl, decodeInstr_rx_buildFrame crc (rxInstr_sWtx payload)⟩
  | sOtherRx low body =>
    obtain ⟨-, hlow⟩ : payloadFits p body = true ∧ low ≠ wtxLow := by simpa [Instr.wellFormed] using hw
    cases hd; exact ⟨_, rfl, decodeInstr_rx_buildFrame crc (rxInstr_sOther hlow body)⟩
  | transceive n k => cases hd
  | resetSequence => cases hd
  | encodeI seq payload => cases hd
  | encodeWtxAck m => cases hd
  | decode raw => cases hd

end Sys2Proof
end

section
/-! SUPPORT. O10: bytes that decode are the encoding of what they decode to. The checks accept only the frame of its PCB and
payload, and the instruction read off a PCB carries every bit of it. -/

namespace Sys2Proof

theorem eq_ok_of_toOption_eq_some {ε α : Type} {x : Except ε α} {a : α} (h : x.toOption = some a) : x = .ok a := by
  cases x with
  | error e => cases h
  | ok b => cases h; rfl

/-- What the block type of a PCB can be once it is none of the first three. -/
theorem pcbType_eq_three {pcb : Byte} (h0 : pcbType pcb ≠ 0b00#2) (h1 : pcbType pcb ≠ 0b01#2)
    (h2 : pcbType pcb ≠ 0b10#2) : pcbType pcb = 0b11#2 := by
  generalize pcbType pcb = type at *
  revert type; decide

/-- The instruction a received frame is keeps the frame's PCB and payload: it stands on the receive side, and its encoding
is that frame. -/
theorem encode_rxInstr (crc : CrcFun) (pcb : Byte) (payload : List Byte) :
    (rxInstr pcb payload).direction = some .rx ∧
      encode crc (rxInstr pcb payload) = some (buildFrame crc pcb payload) := by
  unfold rxInstr
  split
  next h0 =>
    refine ⟨rfl, ?_⟩
    rw [encode, pcbFlags_append_pcbSeq, pcbOf_pcbLow h0]
  next h0 =>
    split
    next h1 => exact ⟨rfl, by rw [encode, pcbOf_pcbLow h1]⟩
    next h1 =>
      split
      next h2 => exact ⟨rfl, by rw [encode, pcbOf_pcbLow h2]⟩
      next h2 =>
        split
        next hw => exact ⟨rfl, by rw [encode, (Machine.isWtxPcb_iff pcb).1 ⟨h0, h1, h2, hw⟩]⟩
        next hw => exact ⟨rfl, by rw [encode, pcbOf_pcbLow (pcbType_eq_three h0 h1 h2)]⟩

/-- Settles O10: on each side, everything its decoder accepts. -/
theorem decodedFramesEncodeBack : Obligations.DecodedFramesEncodeBack := by
  intro crc d bytes i h
  cases d with
  | tx =>
    rcases decodeTx_eq_ok (eq_ok_of_toOption_eq_some h) with ⟨payload, rfl, rfl⟩ | ⟨payload, rfl, rfl⟩ | ⟨m, rfl, rfl⟩
    · exact ⟨rfl, rfl⟩
    · exact ⟨rfl, rfl⟩
    · exact ⟨rfl, rfl⟩
  | rx =>
    obtain ⟨pcb, payload, rfl, rfl⟩ := decodeRx_eq_ok (eq_ok_of_toOption_eq_some h)
    exact encode_rxInstr crc pcb payload

end Sys2Proof
end

section
/-! SUPPORT. O4: DECODE's class of a PCB by its block type (40_frame_codec.md R60), and the block type by the PCB's value. -/

namespace Sys2Proof

theorem classify_type_zero {pcb : Byte} (h : pcbType pcb = 0b00#2) (payload : List Byte) :
    classify pcb payload = .iBlock (pcbSeq pcb) payload := by
  simp [classify, h]

theorem classify_type_one {pcb : Byte} (h : pcbType pcb = 0b01#2) (payload : List Byte) :
    classify pcb payload = .unclassified := by
  simp [classify, h]

theorem classify_type_two {pcb : Byte} (h : pcbType pcb = 0b10#2) (payload : List Byte) :
    classify pcb payload = .rBlock := by
  simp [classify, h]

theorem classify_type_three {pcb : Byte} (h : pcbType pcb = 0b11#2) (payload : List Byte) :
    classify pcb payload = .sBlock (isWtxPcb pcb) payload := by
  simp [classify, h]

/-- Of the PCBs of type 11 only 0xF2 passes the S(WTX) selector (30_encoding.md R48). -/
theorem isWtxPcb_eq_false {pcb : Byte} (h : pcbType pcb = 0b11#2) (hne : pcb ≠ wtxPcb) : isWtxPcb pcb = false := by
  rw [← Bool.not_eq_true]
  exact fun hw => hne ((Machine.isWtxPcb_iff pcb).1 (by simp [h, hw]))

/-- The sequence bit is the lowest bit of the PCB's value (30_encoding.md R46). -/
theorem pcbSeq_eq_ofNat (pcb : Byte) : pcbSeq pcb = BitVec.ofNat 1 (pcb.toNat % 2) := by
  apply BitVec.eq_of_toNat_eq
  simp [pcbSeq]

/-- Settles O4: the four quarters of the 256 values are the four block types, and 0xF2 is told apart inside the last. -/
theorem pcbMapOfAllValues : Obligations.PcbMapOfAllValues := by
  intro pcb payload
  have hlt : pcb.toNat < 256 := pcb.isLt
  have htype (type : BitVec 2) := (pcbType_eq_iff pcb type).2
  refine ⟨fun h => ?_, fun h1 h2 => ?_, fun h1 h2 => ?_, fun h1 hne => ?_, ?_⟩
  · rw [classify_type_zero (htype 0b00#2 (show pcb.toNat / 64 = 0 by omega)), pcbSeq_eq_ofNat]
  · exact classify_type_one (htype 0b01#2 (show pcb.toNat / 64 = 1 by omega)) payload
  · exact classify_type_two (htype 0b10#2 (show pcb.toNat / 64 = 2 by omega)) payload
  · have h3 : pcbType pcb = 0b11#2 := htype 0b11#2 (show pcb.toNat / 64 = 3 by omega)
    rw [classify_type_three h3, isWtxPcb_eq_false h3 hne]
  · rintro rfl
    exact classify_wtxPcb payload

end Sys2Proof
end

section
/-! SUPPORT. O48: what the block transmits. Only an exchange calls the link, with the bytes of TX_BUF, and the invariant says
which frame of the block stands there (10_state.md R20; 41_session.md R69, R78). -/

namespace Sys2Proof.Machine

/-- An exchange is one call of the link, whatever the answer (42_interfaces.md R91). -/
@[simp] theorem exchange_linkCalls (f : List Byte) (s : State) :
    (exchange f s).linkCalls = s.linkCalls ++ [callOf s.params f] := by
  rcases exchange_cases f s with ⟨-, h⟩ | ⟨-, -, h⟩ | ⟨-, -, h⟩ <;> rw [h] <;> rfl

theorem CommandCase.linkCalls {s t : State} {c : Command} (h : CommandCase s c t) : t.linkCalls = s.linkCalls := by
  cases h <;> rfl

/-- A step calls the link with the bytes of TX_BUF in SENDING or WTX_RETRY, or does not call it. -/
theorem StepCase.linkCalls {s t : State} (h : StepCase s t) :
    t.linkCalls = s.linkCalls ∨
    ((s.phase = .sending ∨ s.phase = .wtxRetry) ∧
      t.linkCalls = s.linkCalls ++ [callOf s.params (readBytes s.txBuf 0 (txCount s))]) := by
  cases h with
  | command c rest _ hh ht he => exact .inl ht.linkCalls
  | sent hp hl => exact .inr ⟨hp, exchange_linkCalls _ s⟩
  | _ => exact .inl rfl

/-- In SENDING the bytes to transmit are the I-block of the current SEQ (30_encoding.md R45). -/
theorem StateInv.frame_of_sending {s : State} (h : StateInv s) (hp : s.phase = .sending) :
    ∃ payload : List Byte, readBytes s.txBuf 0 (txCount s) = encodeIFrame (crcOf s) s.seq payload := by
  obtain ⟨payload, -, -, hframe⟩ := h.sendingFrame hp
  have hcount : txCount s = s.txLen := by simp [txCount, hp]
  exact ⟨payload, hcount ▸ hframe⟩

/-- In WTX_RETRY the bytes to transmit are an acknowledgement (30_encoding.md R49). -/
theorem StateInv.frame_of_wtxRetry {s : State} (h : StateInv s) (hp : s.phase = .wtxRetry) :
    ∃ m : Byte, readBytes s.txBuf 0 (txCount s) = encodeWtxAckFrame (crcOf s) m := by
  obtain ⟨-, -, m, hframe⟩ := h.retryFrame hp
  have hcount : txCount s = 4 := by simp [txCount, hp, ackLen]
  exact ⟨m, hcount ▸ hframe⟩

/-- Settles O48: a step that calls the link transmits the frame the invariant gives the phase. -/
theorem transmittedPcbIsTheBlocksOwn : Obligations.TransmittedPcbIsTheBlocksOwn := by
  intro s t hs hstep
  obtain ⟨-, hcase⟩ := step_cases hstep
  rcases hcase.linkCalls with hcalls | ⟨hp | hp, hcalls⟩
  · exact .inl hcalls
  · exact .inr ⟨_, hcalls, .inl ⟨hp, hs.frame_of_sending hp⟩⟩
  · exact .inr ⟨_, hcalls, .inr ⟨hp, hs.frame_of_wtxRetry hp⟩⟩

end Sys2Proof.Machine
end

section
/-! SUPPORT. O1: one frame of every class, from 95_test_vectors.md. A frame is its PCB, its payload and two trailing bytes; what
is computed is the CRC of the first two, and the laws of the decoders do the rest. -/

namespace Sys2Proof

/-- A frame whose trailing bytes are its CRC is a built frame. -/
theorem append_eq_buildFrame {crc : CrcFun} {pcb c0 c1 : Byte} {payload : List Byte}
    (h : crc (pcb :: payload) = (c0, c1)) : pcb :: payload ++ [c0, c1] = buildFrame crc pcb payload := by
  rw [buildFrame, appendCrc, h]

/-- A received frame whose trailing bytes are its CRC is the instruction its PCB names. -/
theorem decodeRx_append {crc : CrcFun} {pcb c0 c1 : Byte} {payload : List Byte} {i : Instr}
    (h : crc (pcb :: payload) = (c0, c1)) (hi : rxInstr pcb payload = i) :
    decodeRx crc (pcb :: payload ++ [c0, c1]) = .ok i := by
  rw [append_eq_buildFrame h, decodeRx_buildFrame, hi]

theorem decodeRx_crcMismatch {crc : CrcFun} {pcb c0 c1 : Byte} {payload : List Byte}
    (h : crc (pcb :: payload) ≠ (c0, c1)) : decodeRx crc (pcb :: payload ++ [c0, c1]) = .error .crcMismatch := by
  have hne : [c0, c1] ≠ [(crc (pcb :: payload)).1, (crc (pcb :: payload)).2] := by
    simpa [Prod.ext_iff, eq_comm] using h
  rw [decodeRx, checkFrame_append, if_neg hne]

theorem decodeRx_short {crc : CrcFun} {raw : List Byte} (h : raw.length < 3) : decodeRx crc raw = .error .tooShort := by
  rw [decodeRx, checkFrame_short h]

/-- The default CRC of the transmitted frames of SpecFramesDecode (40_frame_codec.md R62). -/
theorem crcA_of_transmitted_frames :
    crcA [0x02, 0xA2, 0x01] = (0x6A, 0x9D) ∧ crcA [0x03] = (0x65, 0x63) ∧ crcA [0xF2, 0x03] = (0x83, 0x63) := by
  simp [crcA, crcARegister, crcAByte, crcAShift]

/-- The default CRC of the received frames of SpecFramesDecode (40_frame_codec.md R62). -/
theorem crcA_of_received_frames :
    crcA [0x12, 0x90, 0x00] = (0x64, 0x8C) ∧ crcA [0x42] = (0xE8, 0x30) ∧ crcA [0xB2] = (0x67, 0xC7) ∧
    crcA [0xF2, 0x05, 0x07] = (0x9F, 0x96) ∧ crcA [0xFA, 0x00, 0x01] = (0xD3, 0x4B) ∧
    crcA [0x02, 0x90, 0x00] = (0xF1, 0x09) := by
  simp [crcA, crcARegister, crcAByte, crcAShift]

/-- Settles O1: eight frames with their CRC, one whose CRC bytes are swapped, and one of two bytes. -/
theorem specFramesDecode : Obligations.SpecFramesDecode := by
  obtain ⟨htx0, htx1, hack⟩ := crcA_of_transmitted_frames
  obtain ⟨hi, hu, hr, hwtx, hother, hswap⟩ := crcA_of_received_frames
  refine ⟨?_, ?_, ?_, ?_, ?_, ?_, ?_, ?_, ?_, ?_⟩
  · exact (congrArg _ (append_eq_buildFrame htx0)).trans (decodeTx_encodeIFrame_zero crcA [0xA2, 0x01])
  · exact (congrArg _ (append_eq_buildFrame htx1)).trans (decodeTx_encodeIFrame_one crcA [])
  · exact (congrArg _ (append_eq_buildFrame hack)).trans (decodeTx_encodeWtxAckFrame crcA 0x03)
  · exact decodeRx_append (payload := [0x90, 0x00]) hi (by decide)
  · exact decodeRx_append (payload := []) hu (by decide)
  · exact decodeRx_append (payload := []) hr (by decide)
  · exact decodeRx_append (payload := [0x05, 0x07]) hwtx (by decide)
  · exact decodeRx_append (payload := [0x00, 0x01]) hother (by decide)
  · exact decodeRx_crcMismatch (payload := [0x90, 0x00]) (by rw [hswap]; decide)
  · exact decodeRx_short (by decide)

end Sys2Proof
end

section
/-! SUPPORT. O3 and O2: DECODE's checks in their order (40_frame_codec.md R58 to R61) for any CRC function, and the default CRC on
the reference values of R62. -/

namespace Sys2Proof

theorem decodeFrame_short {crc : CrcFun} {raw : List Byte} (h : raw.length < 3) :
    decodeFrame crc raw = .error .tooShort := by
  rw [decodeFrame, checkFrame_short h]

/-- The CRC field spells out its pair of bytes. -/
theorem crcPair_bytes_inj {p q : CrcPair} : [p.1, p.2] = [q.1, q.2] ↔ p = q := by simp [Prod.ext_iff]

/-- Two trailing bytes that are not the CRC of the others are CrcMismatch (40_frame_codec.md R59). -/
theorem decodeFrame_crcMismatch {crc : CrcFun} {body trailer : List Byte} (hb : body ≠ []) (hl : trailer.length = 2)
    (hne : trailer ≠ [(crc body).1, (crc body).2]) : decodeFrame crc (body ++ trailer) = .error .crcMismatch := by
  obtain ⟨pcb, payload, rfl⟩ := List.exists_cons_of_ne_nil hb
  obtain ⟨c0, c1, rfl⟩ := List.length_eq_two.1 hl
  rw [decodeFrame, checkFrame_append, if_neg hne]

/-- DECODE of a built frame is the class of its PCB, for any CRC function (40_frame_codec.md R60, R61). -/
theorem decodeFrame_buildFrame (crc : CrcFun) (pcb : Byte) (payload : List Byte) :
    decodeFrame crc (buildFrame crc pcb payload) = .ok (classify pcb payload) := by
  rw [decodeFrame, checkFrame_buildFrame]

theorem decodeFrame_append_of_crc_ne {crc : CrcFun} {pcb c0 c1 : Byte} {payload : List Byte}
    (h : crc (pcb :: payload) ≠ (c0, c1)) : decodeFrame crc (pcb :: payload ++ [c0, c1]) = .error .crcMismatch :=
  decodeFrame_crcMismatch (List.cons_ne_nil _ _) rfl fun hc => h (crcPair_bytes_inj.1 hc.symm)

theorem decodeFrame_append_of_crc_eq {crc : CrcFun} {pcb c0 c1 : Byte} {payload : List Byte}
    (h : crc (pcb :: payload) = (c0, c1)) :
    decodeFrame crc (pcb :: payload ++ [c0, c1]) = .ok (classify pcb payload) := by
  rw [append_eq_buildFrame h, decodeFrame_buildFrame]

/-- Settles O3: the length decides first, then the two trailing bytes. -/
theorem decodeChecksLengthThenCrc : Obligations.DecodeChecksLengthThenCrc :=
  fun _ => ⟨fun _ => decodeFrame_short,
    fun _ _ _ _ => ⟨decodeFrame_append_of_crc_ne, fun h => ⟨_, decodeFrame_append_of_crc_eq h⟩⟩⟩

/-- Settles O2: the register run over at most two bytes. -/
theorem defaultCrcReferenceValues : Obligations.DefaultCrcReferenceValues := by
  simp [Obligations.DefaultCrcReferenceValues, crcA, crcARegister, crcAByte, crcAShift]

end Sys2Proof
end

section
/-! SUPPORT. O11, O12, O13: the codec operations on the command port (40_frame_codec.md R55 to R57, R61). Each presents one result
of its operands, the parameters and nothing else, or ENCODE_I records RequestTooLarge. O5, O6 and O14 follow from that. -/

namespace Sys2Proof.Machine

/-! ### What each operation does on a block that is not faulted -/

theorem exec_encodeI_of_fits {s : State} {payload : List Byte} (seq : Bit) (hf : s.fault = [])
    (hl : payload.length ≤ s.params.frameBufCap - 3) :
    exec (.encodeI seq payload) s = .next (present (.frame (encodeIFrame (crcOf s) seq payload)) s) := by
  have hsize : requestTooLarge s.params payload.length = false := (requestTooLarge_false_iff _ _).2 hl
  rw [exec_encodeI, live_of_live _ hf, commandEffect, hsize]
  rfl

theorem exec_encodeI_of_tooLarge {s : State} {payload : List Byte} (seq : Bit) (hf : s.fault = [])
    (hl : s.params.frameBufCap - 3 < payload.length) :
    exec (.encodeI seq payload) s = .next { s with fault := [.requestTooLarge] } := by
  rw [exec_encodeI, live_of_live _ hf, commandEffect, if_pos ((requestTooLarge_true_iff _ _).2 hl),
    raiseFault_of_live _ hf]

theorem exec_encodeWtxAck_of_live {s : State} (m : Byte) (hf : s.fault = []) :
    exec (.encodeWtxAck m) s = .next (present (.frame (encodeWtxAckFrame (crcOf s) m)) s) :=
  live_of_live _ hf

/-- DECODE presents what the codec answers. -/
theorem exec_decode_of_live {s : State} {raw : List Byte} {x : Except FrameError FrameClass} (hf : s.fault = [])
    (hx : decodeFrame (crcOf s) raw = x) : exec (.decode raw) s = .next (present (decodeResult x) s) := by
  rw [exec_decode, live_of_live _ hf, commandEffect, hx]

/-- Settles O11: MAX_FRAME_PAYLOAD separates the frame from the usage fault. -/
theorem encodeIBuildsFrameOrFaults : Obligations.EncodeIBuildsFrameOrFaults :=
  fun _ seq _ hf => ⟨exec_encodeI_of_fits seq hf, exec_encodeI_of_tooLarge seq hf⟩

/-- Settles O12: the frame is PCB 0xF2, the byte and their CRC. -/
theorem encodeWtxAckBuildsFrame : Obligations.EncodeWtxAckBuildsFrame :=
  fun _ m hf => exec_encodeWtxAck_of_live m hf

/-- Settles O13: the three answers of DECODE, each presented. -/
theorem decodePresentsItsResult : Obligations.DecodePresentsItsResult :=
  fun _ hf => ⟨fun _ hl => exec_decode_of_live hf (decodeFrame_short hl),
    fun _ _ _ _ hne => exec_decode_of_live hf (decodeFrame_append_of_crc_ne hne),
    fun _ _ _ _ heq => exec_decode_of_live hf (decodeFrame_append_of_crc_eq heq)⟩

/-! ### Round trips on the machine -/

/-- DECODE of a built frame after an operation has presented it: the CRC primitive is still the same one. -/
theorem exec_decode_buildFrame {s : State} (hf : s.fault = []) (r : Result) (pcb : Byte) (payload : List Byte) :
    exec (.decode (buildFrame (crcOf s) pcb payload)) (present r s) =
      .next (present (.decoded (classify pcb payload)) (present r s)) :=
  exec_decode_of_live (s := present r s) hf (decodeFrame_buildFrame (crcOf s) pcb payload)

/-- Settles O5: what ENCODE_I built is a frame whose PCB is of the I-block class. -/
theorem encodeThenDecodeIBlock : Obligations.EncodeThenDecodeIBlock := by
  intro s seq payload hf hl
  refine ⟨_, _, _, exec_encodeI_of_fits seq hf hl, rfl, encodeIFrame_length _ _ _,
    exec_decode_buildFrame hf _ (iBlockPcb seq) payload, ?_⟩
  rw [present_results, classify_iBlockPcb]

/-- Settles O6: what ENCODE_WTX_ACK built is a frame whose PCB is that of an S(WTX). -/
theorem encodeThenDecodeWtxAck : Obligations.EncodeThenDecodeWtxAck := by
  intro s m hf
  refine ⟨_, _, _, exec_encodeWtxAck_of_live m hf, rfl, encodeWtxAckFrame_length _ _,
    exec_decode_buildFrame hf _ wtxPcb [m], ?_⟩
  rw [present_results, classify_wtxPcb]

/-! ### The codec reads the parameters only -/

theorem crcOf_of_params {s : State} {p : Params} (h : s.params = p) : crcOf s = crc16a p.crc := by
  rw [crcOf, h]

/-- Settles O14: the result is a function of the operands and the parameters, and so is the one usage fault. -/
theorem codecOperationsAreStateless : Obligations.CodecOperationsAreStateless := by
  intro p c hT hR
  cases c with
  | transceive n k => exact absurd rfl (hT n k)
  | resetSequence => exact absurd rfl hR
  | encodeI seq payload =>
    by_cases hl : payload.length ≤ p.frameBufCap - 3
    · refine .inl ⟨.frame (encodeIFrame (crc16a p.crc) seq payload), fun s hp hf => ?_⟩
      rw [← crcOf_of_params hp]
      exact exec_encodeI_of_fits seq hf (hp ▸ hl)
    · exact .inr fun s hp hf => exec_encodeI_of_tooLarge seq hf (hp ▸ Nat.not_le.1 hl)
  | encodeWtxAck m =>
    refine .inl ⟨.frame (encodeWtxAckFrame (crc16a p.crc) m), fun s hp hf => ?_⟩
    rw [← crcOf_of_params hp]
    exact exec_encodeWtxAck_of_live m hf
  | decode raw =>
    refine .inl ⟨decodeResult (decodeFrame (crc16a p.crc) raw), fun s hp hf => ?_⟩
    exact exec_decode_of_live hf (by rw [crcOf_of_params hp])

end Sys2Proof.Machine
end

section
/-! SUPPORT. O8: one flipped bit changes exactly one byte, so a flip in the CRC field leaves a field that is not the CRC
(40_frame_codec.md R65). -/

namespace Sys2Proof.Machine

/-! ### Flipping a bit -/

theorem xor_twoPow_ne (b : Byte) {j : Nat} (hj : j < 8) : b ^^^ BitVec.twoPow 8 j ≠ b := by
  intro h
  have hbit := congrArg (BitVec.getLsbD · j) h
  simp [hj] at hbit

@[simp] theorem flipBit_length (xs : List Byte) (i j : Nat) : (flipBit xs i j).length = xs.length :=
  List.length_modify _ xs i

@[simp] theorem flipBit_cons_zero (x : Byte) (xs : List Byte) (j : Nat) :
    flipBit (x :: xs) 0 j = (x ^^^ BitVec.twoPow 8 j) :: xs := rfl

@[simp] theorem flipBit_cons_succ (x : Byte) (xs : List Byte) (i j : Nat) :
    flipBit (x :: xs) (i + 1) j = x :: flipBit xs i j := rfl

theorem flipBit_ne {xs : List Byte} {i j : Nat} (hi : i < xs.length) (hj : j < 8) : flipBit xs i j ≠ xs := by
  induction xs generalizing i with
  | nil => cases hi
  | cons x xs ih =>
    cases i with
    | zero => simpa using xor_twoPow_ne x hj
    | succ i => simpa using ih (Nat.lt_of_succ_lt_succ hi)

theorem flipBit_append_left {xs ys : List Byte} {i : Nat} (j : Nat) (hi : i < xs.length) :
    flipBit (xs ++ ys) i j = flipBit xs i j ++ ys := by
  induction xs generalizing i with
  | nil => cases hi
  | cons x xs ih =>
    cases i with
    | zero => rfl
    | succ i => simpa using ih (Nat.lt_of_succ_lt_succ hi)

theorem flipBit_append_right (xs ys : List Byte) (i j : Nat) :
    flipBit (xs ++ ys) (xs.length + i) j = xs ++ flipBit ys i j := by
  induction xs with
  | nil => simp
  | cons x xs ih =>
    rw [List.length_cons, Nat.add_right_comm, List.cons_append, flipBit_cons_succ, ih, List.cons_append]

/-- Settles O8: DECODE compares the CRC field byte for byte. -/
theorem crcByteFlipDetectedForAnyCrc : Obligations.CrcByteFlipDetectedForAnyCrc := by
  intro crc pcb payload i j hlo hhi hj
  obtain ⟨k, rfl⟩ := Nat.exists_eq_add_of_le hlo
  have hk : k < 2 := by omega
  rw [buildFrame, appendCrc, ← List.length_cons (a := pcb), flipBit_append_right]
  exact decodeFrame_crcMismatch (List.cons_ne_nil _ _) (flipBit_length _ _ _) (flipBit_ne hk hj)

end Sys2Proof.Machine
end

section
/-! SUPPORT. O7: the default CRC tells apart two sequences that differ in one byte. Every step of the register is injective in the
register and in the byte, so after a differing byte the registers differ, and equal bytes keep them different. -/

namespace Sys2Proof

/-- The feedback 0x8408 sets bit 15, which the shift has cleared: bit 15 shows which bit was shifted out. -/
theorem crcAShift_getLsbD_fifteen (c : BitVec 16) : (crcAShift c).getLsbD 15 = c.getLsbD 0 := by
  unfold crcAShift
  split
  next h => simp [h]
  next h => simpa using h

theorem crcAShift_injective : Function.Injective crcAShift := by
  intro c d h
  have hlow : c.getLsbD 0 = d.getLsbD 0 := by
    rw [← crcAShift_getLsbD_fifteen, h, crcAShift_getLsbD_fifteen]
  have hshift : c >>> 1 = d >>> 1 := by
    unfold crcAShift at h
    rw [hlow] at h
    split at h
    · exact (BitVec.xor_left_inj _).1 h
    · exact h
  apply BitVec.eq_of_getLsbD_eq
  intro i _
  cases i with
  | zero => exact hlow
  | succ i => simpa [Nat.add_comm] using congrArg (BitVec.getLsbD · i) hshift

/-- The eight shifts after a byte has been XORed in. -/
theorem crcAByte_eq_iterate (c : BitVec 16) (b : Byte) : crcAByte c b = crcAShift^[8] (c ^^^ b.setWidth 16) := rfl

theorem crcAByte_register_injective (b : Byte) : Function.Injective (crcAByte · b) :=
  fun _ _ h => (BitVec.xor_left_inj _).1 (crcAShift_injective.iterate 8 h)

theorem crcAByte_byte_injective (c : BitVec 16) : Function.Injective (crcAByte c) := by
  intro a b h
  have hwide : a.setWidth 16 = b.setWidth 16 := (BitVec.xor_right_inj _).1 (crcAShift_injective.iterate 8 h)
  simpa using congrArg (BitVec.setWidth 8) hwide

theorem crcARegister_injective (xs : List Byte) : Function.Injective (crcARegister · xs) := by
  induction xs with
  | nil => exact fun _ _ h => h
  | cons x xs ih => exact fun _ _ h => crcAByte_register_injective x (ih h)

theorem crcA_eq_iff {xs ys : List Byte} :
    crcA xs = crcA ys ↔ crcARegister 0x6363#16 xs = crcARegister 0x6363#16 ys := by
  refine ⟨fun h => ?_, fun h => by rw [crcA, crcA, h]⟩
  have hlow := congrArg Prod.fst h
  have hhigh := congrArg Prod.snd h
  simp only [crcA] at hlow hhigh
  bv_omega

end Sys2Proof

namespace Sys2Proof.Machine

theorem crcARegister_flipBit_ne {xs : List Byte} {i j : Nat} (c : BitVec 16) (hi : i < xs.length) (hj : j < 8) :
    crcARegister c (flipBit xs i j) ≠ crcARegister c xs := by
  induction xs generalizing i c with
  | nil => cases hi
  | cons x xs ih =>
    cases i with
    | zero => exact fun h => xor_twoPow_ne x hj (crcAByte_byte_injective c (crcARegister_injective xs h))
    | succ i => exact ih (crcAByte c x) (Nat.lt_of_succ_lt_succ hi)

/-- With the default CRC a bit flipped anywhere in a built frame is found, whatever the PCB (40_frame_codec.md R65). -/
theorem decodeFrame_flipBit_buildFrame (pcb : Byte) (payload : List Byte) {i j : Nat} (hi : i < payload.length + 3)
    (hj : j < 8) : decodeFrame crcA (flipBit (buildFrame crcA pcb payload) i j) = .error .crcMismatch := by
  by_cases hbody : i < (pcb :: payload).length
  · have hne : crcA (flipBit (pcb :: payload) i j) ≠ crcA (pcb :: payload) :=
      fun h => crcARegister_flipBit_ne _ hbody hj (crcA_eq_iff.1 h)
    rw [buildFrame, appendCrc, flipBit_append_left j hbody]
    exact decodeFrame_crcMismatch (List.ne_nil_of_length_pos (by simp)) rfl fun h => hne (crcPair_bytes_inj.1 h.symm)
  · exact crcByteFlipDetectedForAnyCrc crcA pcb payload i j (Nat.not_lt.1 hbody) hi hj

/-- Settles O7: both encoders build frames. -/
theorem defaultCrcDetectsEverySingleBitFlip : Obligations.DefaultCrcDetectsEverySingleBitFlip :=
  ⟨fun seq payload _ _ => decodeFrame_flipBit_buildFrame (iBlockPcb seq) payload,
    fun m _ _ => decodeFrame_flipBit_buildFrame wtxPcb [m]⟩

end Sys2Proof.Machine
end

section
/-! SUPPORT. O40: the invariant of every step (10_state.md R20, R21, R23; 41_session.md R81), which O51's part of this text
shows by the cases of a step. -/

namespace Sys2Proof.Machine

/-- Settles O40, by the cases of a step. -/
theorem everyStepKeepsTheInvariant : Obligations.EveryStepKeepsTheInvariant := by
  intro s t hs hstep
  obtain ⟨-, hcase⟩ := step_cases hstep
  exact hcase.stateInv hs

end Sys2Proof.Machine
end

section
/-! SUPPORT. O15, O16, O57, O17: TRANSCEIVE and RESET_SEQUENCE on the command port (41_session.md R67, R68, R87). -/

namespace Sys2Proof.Machine

/-- A read of everything that was just written at the start of a buffer. -/
theorem readBytes_writeBytes_all {m : Memory} {bs : List Byte} {n : Nat} (h : m.wf = true) (hn : bs.length = n) :
    readBytes (writeBytes m 0 bs) 0 n = bs :=
  hn ▸ readBytes_writeBytes 0 bs h

/-! ### TRANSCEIVE with its preconditions met -/

@[simp] theorem requestFrame_length (n : Nat) (s : State) : (requestFrame n s).length = n + 3 := by
  simp [requestFrame]

/-- With both preconditions met the I-block is in TX_BUF and the attempt begins (41_session.md R68). -/
theorem commandEffect_transceive_of_idle {s : State} {n : Nat} (k : Nat) (hp : s.phase = .idle) (hok : s.params.ok)
    (hn : n ≤ s.params.frameBufCap - 3) :
    commandEffect (.transceive n k) s = startAttempt (writeBytes s.txBuf 0 (requestFrame n s)) n k s := by
  have h4 : 4 ≤ s.params.frameBufCap := hok
  have hsize : requestTooLarge s.params n = false := (requestTooLarge_false_iff _ _).2 hn
  rw [commandEffect, if_pos ⟨hp, hsize⟩, beginAttempt_eq, if_pos (by omega)]

/-- SENDING finds the I-block of the current SEQ and the request in TX_BUF. -/
theorem readBytes_startAttempt {s : State} (n k : Nat) (hw : s.txBuf.wf = true) :
    readBytes (startAttempt (writeBytes s.txBuf 0 (requestFrame n s)) n k s).txBuf 0 (n + 3) = requestFrame n s :=
  readBytes_writeBytes_all hw (requestFrame_length n s)

/-- Settles O15: the attempt's frame is written over the head of TX_BUF. -/
theorem transceiveStartsAttempt : Obligations.TransceiveStartsAttempt := by
  intro s n k hf hp hok hw hn
  refine ⟨_, ?_, rfl, readBytes_startAttempt n k hw, fun a ha => ?_⟩
  · rw [exec_transceive, live_of_live _ hf, commandEffect_transceive_of_idle k hp hok hn]
  · exact readByte_writeBytes_other _ (.inr (by simpa using ha))

/-- A TRANSCEIVE that comes to SENDING from IDLE has begun an attempt. -/
theorem exec_transceive_sending {s t : State} {n k : Nat} (h : exec (.transceive n k) s = .next t) (hp : s.phase = .idle)
    (ht : t.phase = .sending) : t = startAttempt (writeBytes s.txBuf 0 (requestFrame n s)) n k s := by
  rw [exec_transceive] at h
  obtain ⟨-, rfl⟩ := live_eq_next h
  have hcase := commandEffect_case (.transceive n k) s
  generalize commandEffect (.transceive n k) s = t at hcase ht
  cases hcase with
  | started n k hp hn hl => rfl
  | faulted _ fs hfs => exact absurd (hp.symm.trans ht) (by decide)
  | presented _ r hr => exact absurd (hp.symm.trans ht) (by decide)

/-- The frame of an attempt is a function of the parameters, SEQ and the request bytes. -/
theorem requestFrame_congr {s t : State} {n : Nat} (hpar : s.params = t.params) (hseq : s.seq = t.seq)
    (hreq : readBytes s.reqBuf 0 n = readBytes t.reqBuf 0 n) : requestFrame n s = requestFrame n t := by
  simp only [requestFrame, crcOf, hpar, hseq, hreq]

/-- Settles O57: both attempts put the frame of their request into TX_BUF, and the two frames are the same. -/
theorem retrySendsTheSameFrame : Obligations.RetrySendsTheSameFrame := by
  intro s s' t t' n k k' hs ht hpar hseq hreq hes het hps' hpt' hps hpt
  obtain rfl := exec_transceive_sending hes hps hps'
  obtain rfl := exec_transceive_sending het hpt hpt'
  refine ⟨rfl, ?_⟩
  calc readBytes _ 0 (n + 3) = requestFrame n s := readBytes_startAttempt n k hs.tx
    _ = requestFrame n t := requestFrame_congr hpar hseq hreq
    _ = readBytes _ 0 (n + 3) := (readBytes_startAttempt n k' ht.tx).symm

/-! ### Broken preconditions -/

/-- With a broken precondition TRANSCEIVE records what is broken (41_session.md R67). -/
theorem exec_transceive_of_broken {s : State} {n : Nat} (k : Nat) (hf : s.fault = [])
    (h : s.phase ≠ .idle ∨ s.params.frameBufCap - 3 < n) :
    exec (.transceive n k) s = .next (noteRequestSize n (noteReentry s)) := by
  have hbroken : ¬ (s.phase = .idle ∧ requestTooLarge s.params n = false) := by
    rw [requestTooLarge_false_iff]
    rintro ⟨hp, hn⟩
    exact h.elim (absurd hp) (Nat.not_lt.2 hn)
  rw [exec_transceive, live_of_live _ hf, commandEffect, if_neg hbroken]

theorem noteReentry_of_idle {s : State} (hp : s.phase = .idle) : noteReentry s = s := if_pos hp

theorem noteReentry_of_busy {s : State} (hp : s.phase ≠ .idle) : noteReentry s = raiseFault .reentry s := if_neg hp

theorem noteRequestSize_of_fits {s : State} {n : Nat} (hn : n ≤ s.params.frameBufCap - 3) : noteRequestSize n s = s := by
  rw [noteRequestSize, (requestTooLarge_false_iff _ _).2 hn]
  rfl

theorem noteRequestSize_of_tooLarge {s : State} {n : Nat} (hn : s.params.frameBufCap - 3 < n) :
    noteRequestSize n s = raiseFault .requestTooLarge s :=
  if_pos ((requestTooLarge_true_iff _ _).2 hn)

/-- Settles O16, by which of the two preconditions is broken. -/
theorem transceiveRecordsBrokenPreconditions : Obligations.TransceiveRecordsBrokenPreconditions := by
  intro s n k hf
  refine ⟨fun hp hn => ?_, fun hp hn => ?_, fun hp hn => ?_⟩
  · rw [exec_transceive_of_broken k hf (.inl hp), noteReentry_of_busy hp,
      noteRequestSize_of_fits (s := raiseFault .reentry s) hn, raiseFault_of_live _ hf]
  · rw [exec_transceive_of_broken k hf (.inr hn), noteReentry_of_idle hp, noteRequestSize_of_tooLarge hn,
      raiseFault_of_live _ hf]
  · rw [exec_transceive_of_broken k hf (.inl hp), noteReentry_of_busy hp,
      noteRequestSize_of_tooLarge (s := raiseFault .reentry s) hn, raiseFault_of_live .reentry hf]
    rfl

/-! ### RESET_SEQUENCE -/

theorem exec_resetSequence_of_idle {s : State} (hf : s.fault = []) (hp : s.phase = .idle) :
    exec .resetSequence s = .next { s with seq := 0 } := by
  rw [exec_resetSequence, live_of_live _ hf, commandEffect, if_pos hp]

theorem exec_resetSequence_of_busy {s : State} (hf : s.fault = []) (hp : s.phase ≠ .idle) :
    exec .resetSequence s = .next { s with fault := [.resetWhileBusy] } := by
  rw [exec_resetSequence, live_of_live _ hf, commandEffect, if_neg hp, raiseFault_of_live _ hf]

/-- Settles O17, by the phase. -/
theorem resetSequenceClearsSeq : Obligations.ResetSequenceClearsSeq := fun s hf =>
  ⟨fun hp => ⟨exec_resetSequence_of_idle hf hp, exec_resetSequence_of_idle (s := { s with seq := 0 }) hf hp⟩,
    exec_resetSequence_of_busy hf⟩

end Sys2Proof.Machine
end

section
/-! SUPPORT. O23 to O28: what the session does with a received frame in AWAITING_RESPONSE (41_session.md R75 to R77), and that
a frame outside its phase is refused (R85). -/

namespace Sys2Proof.Machine

/-! ### The I-block (41_session.md R75) -/

/-- Settles O23: the payload is written over the head of RESP_BUF. -/
theorem iBlockIsDelivered : Obligations.IBlockIsDelivered := by
  intro s flags seq payload hf hp hw hl
  refine ⟨deliver (writeBytes s.respBuf 0 payload) payload.length s, ?_, rfl, readBytes_writeBytes 0 payload hw,
    fun a ha => readByte_writeBytes_other payload (.inr (by simpa using ha))⟩
  rw [exec_iBlockRx, inPhase_of_phase _ hf hp, acceptResponse_eq, if_neg (Nat.not_lt.2 hl)]

/-- Settles O24: the size check comes before every write. -/
theorem iBlockTooLargeFails : Obligations.IBlockTooLargeFails := by
  intro s flags seq payload hf hp hl
  rw [exec_iBlockRx, inPhase_of_phase _ hf hp, acceptResponse_eq, if_pos hl]
  rfl

/-! ### The S(WTX) request (41_session.md R76) -/

/-- A multiplier below the cap is acknowledged. -/
theorem answerWtx_of_below {s : State} (m : Byte) (more : List Byte) (hn : s.wtxCnt ≠ wtxCap) (hok : s.params.ok) :
    answerWtx (m :: more) s = queueAck (writeBytes s.txBuf 0 (encodeWtxAckFrame (crcOf s) m)) s := by
  rw [answerWtx_cons, if_neg hn, if_pos hok]

/-- A multiplier at the cap is WtxExceeded. -/
theorem answerWtx_of_spent {s : State} (m : Byte) (more : List Byte) (hn : s.wtxCnt = wtxCap) :
    answerWtx (m :: more) s = raiseFail .wtxExceeded s := by
  rw [answerWtx_cons, if_pos hn]

/-- WTX_RETRY finds the acknowledgement of the multiplier in TX_BUF. -/
theorem readBytes_queueAck {s : State} (m : Byte) (hw : s.txBuf.wf = true) :
    readBytes (queueAck (writeBytes s.txBuf 0 (encodeWtxAckFrame (crcOf s) m)) s).txBuf 0 4 =
      encodeWtxAckFrame (crcOf s) m :=
  readBytes_writeBytes 0 (encodeWtxAckFrame (crcOf s) m) hw

/-- Settles O25: the acknowledgement is written over the head of TX_BUF. -/
theorem wtxRequestIsAcknowledged : Obligations.WtxRequestIsAcknowledged := by
  intro s m more hf hp hok hw hn
  refine ⟨_, ?_, rfl, readBytes_queueAck m hw, fun a ha => readByte_writeBytes_other _ (.inr (by simpa using ha))⟩
  rw [exec_sWtxRx, inPhase_of_phase _ hf hp, answerWtx_of_below m more hn hok]

/-- Settles O26: without a multiplier the counter is not looked at, with one it is the cap. -/
theorem wtxRequestIsRefused : Obligations.WtxRequestIsRefused := by
  intro s hf hp
  refine ⟨?_, fun hn m more => ?_⟩
  · rw [exec_sWtxRx, inPhase_of_phase _ hf hp, answerWtx_nil]
    rfl
  · rw [exec_sWtxRx, inPhase_of_phase _ hf hp, answerWtx_of_spent m more hn]
    rfl

/-! ### The other classes (41_session.md R77) -/

/-- Settles O27: the three classes have one meaning. -/
theorem unsupportedBlocksFail : Obligations.UnsupportedBlocksFail := by
  intro s low body i hf hp hi
  have hfail : inPhase .awaitingResponse s (raiseFail .unsupportedBlock) = .next (raiseFail .unsupportedBlock s) :=
    inPhase_of_phase _ hf hp
  rcases hi with rfl | rfl | rfl
  · exact hfail
  · exact hfail
  · exact hfail

/-! ### Frames outside their phase (41_session.md R85) -/

/-- A received frame is read in AWAITING_RESPONSE only. -/
theorem exec_rx_eq_inPhase {i : Instr} (h : i.direction = some .rx) (s : State) :
    ∃ go : State → State, exec i s = inPhase .awaitingResponse s go := by
  cases i with
  | iBlockRx flags seq payload => exact ⟨_, rfl⟩
  | unclassifiedRx low body => exact ⟨_, rfl⟩
  | rBlockRx low body => exact ⟨_, rfl⟩
  | sWtxRx payload => exact ⟨_, rfl⟩
  | sOtherRx low body => exact ⟨_, rfl⟩
  | _ => cases h

/-- A transmitted frame is sent in its one phase. -/
theorem exec_tx_eq_inPhase {i : Instr} (h : i.direction = some .tx) (s : State) :
    ∃ (p : Phase) (go : State → State), txPhase i = some p ∧ exec i s = inPhase p s go := by
  cases i with
  | iBlockTxSeq0 payload => exact ⟨_, _, rfl, rfl⟩
  | iBlockTxSeq1 payload => exact ⟨_, _, rfl, rfl⟩
  | sWtxAckTx m => exact ⟨_, _, rfl, rfl⟩
  | _ => cases h

/-- Settles O28: every frame instruction runs behind the guard of its phase. -/
theorem frameOutsideItsPhaseIsRefused : Obligations.FrameOutsideItsPhaseIsRefused := by
  intro s i hf
  refine ⟨fun hd hp => ?_, fun hd hp => ?_⟩
  · obtain ⟨go, hi⟩ := exec_rx_eq_inPhase hd s
    rw [hi, inPhase_of_other go hf hp]
  · obtain ⟨p, go, htx, hi⟩ := exec_tx_eq_inPhase hd s
    have hne : s.phase ≠ p := fun hs => hp (by rw [htx, hs])
    rw [hi, inPhase_of_other go hf hne]

end Sys2Proof.Machine
end

section
/-! SUPPORT. O18 and O31: a transmission is one exchange on the link port (41_session.md R69, R78; 42_interfaces.md R91). -/

namespace Sys2Proof.Machine

/-- An answer whose bits and bytes fit RX_BUF is latched, whatever its status. -/
theorem exchange_of_fits {s : State} (f : List Byte) (hbits : (linkAnswer s).bits ≤ s.params.rxCapBits)
    (hbytes : (linkAnswer s).bytes.length ≤ s.params.frameBufCap) :
    exchange f s = latchAnswer (linkAnswer s) (writeBytes s.rxBuf 0 (linkAnswer s).bytes) (callLink f s) := by
  rcases exchange_cases f s with ⟨h, -⟩ | ⟨-, h, -⟩ | ⟨-, -, h⟩
  · exact absurd hbits (Nat.not_le.2 h)
  · exact absurd hbytes (Nat.not_le.2 h)
  · exact h

/-- A transmitted frame in its phase is one exchange with the bytes it encodes to. -/
theorem exec_transmitted_frame {s : State} {i : Instr} {p : Phase} {frame : List Byte} (hf : s.fault = [])
    (hi : txPhase i = some p) (hp : s.phase = p) (he : encode (crcOf s) i = some frame)
    (hl : frame.length ≤ s.params.frameBufCap) : exec i s = .next (exchange frame s) := by
  have hrun : inPhase p s (transmit frame) = .next (exchange frame s) := by
    rw [inPhase_of_phase _ hf hp, transmit, if_pos hl]
  cases i with
  | iBlockTxSeq0 payload => cases hi; cases he; exact hrun
  | iBlockTxSeq1 payload => cases hi; cases he; exact hrun
  | sWtxAckTx m => cases hi; cases he; exact hrun
  | _ => cases hi

/-- Settles O18: the exchange of a frame whose answer fits latches the answer and nothing else. -/
theorem transmittedFrameIsOneExchange : Obligations.TransmittedFrameIsOneExchange := by
  intro s i frame hf hw hbits hbytes hi hl
  have hframe : txPhase i = some s.phase ∧ encode (crcOf s) i = some frame := by
    rcases hi with ⟨payload, rfl, hp, rfl⟩ | ⟨payload, rfl, hp, rfl⟩ | ⟨m, rfl, hp, rfl⟩
    · exact ⟨congrArg some hp.symm, by rw [encode, encodeIFrame, iBlockPcb_zero]; rfl⟩
    · exact ⟨congrArg some hp.symm, by rw [encode, encodeIFrame, iBlockPcb_one]; rfl⟩
    · exact ⟨congrArg some hp.symm, rfl⟩
  obtain ⟨hp, he⟩ := hframe
  refine ⟨_, exec_transmitted_frame hf hp rfl he hl, ?_⟩
  rw [exchange_of_fits frame hbits hbytes]
  exact ⟨rfl, readBytes_writeBytes 0 _ hw, fun a ha => readByte_writeBytes_other _ (.inr (by simpa using ha))⟩

/-- In SENDING and WTX_RETRY the block's own effect is one exchange with the head of TX_BUF. -/
theorem blockEffect_of_transmitting {s : State} (hp : s.phase = .sending ∨ s.phase = .wtxRetry)
    (hl : txCount s ≤ s.params.frameBufCap) : blockEffect s = exchange (readBytes s.txBuf 0 (txCount s)) s := by
  have hsend : blockEffect s = sendEffect s := by rcases hp with hp | hp <;> simp only [blockEffect, hp]
  rw [hsend, sendEffect, if_pos hl]

/-- Settles O31: the bytes go out without a look at them. -/
theorem stepTransmitsWhatStandsInTxBuf : Obligations.StepTransmitsWhatStandsInTxBuf := by
  intro s t n hf hm hn hl hstep
  have hcount : txCount s = n ∧ (s.phase = .sending ∨ s.phase = .wtxRetry) := by
    rcases hn with ⟨hp, rfl⟩ | ⟨hp, rfl⟩
    · exact ⟨by simp [txCount, hp], .inl hp⟩
    · exact ⟨by simp [txCount, hp, ackLen], .inr hp⟩
  obtain ⟨rfl, hp⟩ := hcount
  rw [step_of_no_callerMove hf hm, blockEffect_of_transmitting hp hl] at hstep
  cases hstep
  simp [callOf, bitLength, Params.rxCapBits]

end Sys2Proof.Machine
end

section
/-! SUPPORT. O32, O33, O35: the checks of a reception before its bytes (41_session.md R70, R71) and the report of a terminal
phase (R79). -/

namespace Sys2Proof.Machine

theorem blockEffect_of_awaiting {s : State} (hp : s.phase = .awaitingResponse) : blockEffect s = receiveEffect s := by
  simp only [blockEffect, hp]

theorem blockEffect_of_terminal {s : State} (hp : s.phase = .delivered ∨ s.phase = .failed) :
    blockEffect s = report s := by
  rcases hp with hp | hp <;> simp only [blockEffect, hp]

theorem receiveEffect_of_short {s : State} (hok : s.rxStatus = .success) (hbits : s.rxBits < 24) :
    receiveEffect s = raiseFail .frameTooShort s := by
  simp [receiveEffect, hok, linkOk, hbits]

/-- Settles O32: the status is checked first. -/
theorem linkErrorEndsAttempt : Obligations.LinkErrorEndsAttempt := by
  intro s code hf hm hp he
  rw [step_of_no_callerMove hf hm, blockEffect_of_awaiting hp, receiveEffect_of_error he]
  rfl

/-- Settles O33: the length is checked next. -/
theorem shortReceptionEndsAttempt : Obligations.ShortReceptionEndsAttempt := by
  intro s hf hm hp hok hbits
  rw [step_of_no_callerMove hf hm, blockEffect_of_awaiting hp, receiveEffect_of_short hok hbits]
  rfl

/-- Settles O35: the step is the report. -/
theorem terminalPhaseReportsAndReturns : Obligations.TerminalPhaseReportsAndReturns := by
  intro s hf hm hp
  refine ⟨report s, ?_, rfl⟩
  rw [step_of_no_callerMove hf hm, blockEffect_of_terminal hp]

end Sys2Proof.Machine
end

section
/-! SUPPORT. O46: PHASE moves along the edges of 41_session.md R85. A step records a usage fault and keeps the phase, or records
none and takes an edge. -/

namespace Sys2Proof.Machine

/-- The step from one state to the other records a usage fault and keeps the phase, or records none and takes an edge of R85. -/
def PhaseMove (s t : State) : Prop :=
  t.fault ≠ [] ∧ t.phase = s.phase ∨ t.fault = [] ∧ phaseEdge s.phase t.phase = true

theorem phaseMove_of_edge {s t : State} (hf : s.fault = []) (hfault : t.fault = s.fault)
    (h : phaseEdge s.phase t.phase = true) : PhaseMove s t := .inr ⟨hfault.trans hf, h⟩

theorem phaseMove_raiseFault (u : UsageFault) (s : State) : PhaseMove s (raiseFault u s) :=
  .inl ⟨insertFault_ne_nil _ _, rfl⟩

/-- In IDLE an operation of the command port waits there or starts an attempt. -/
theorem CommandCase.phaseMove {s t : State} {c : Command} (h : CommandCase s c t) (hf : s.fault = [])
    (hp : s.phase = .idle) : PhaseMove s t := by
  cases h with
  | faulted _ fs hfs => exact .inl ⟨hfs, rfl⟩
  | started n k _ hn hl => exact phaseMove_of_edge hf rfl (by rw [hp]; rfl)
  | cleared _ => exact phaseMove_of_edge hf rfl (by simp [hp, phaseEdge])
  | presented _ r hr => exact phaseMove_of_edge hf rfl (by simp [hp, phaseEdge])

/-- A call outside IDLE stays in its phase (42_interfaces.md R97). -/
theorem phaseMove_of_concurrent {s : State} {c : Command} {rest : List HostMove} (hh : s.host = .issueNow c :: rest)
    (hp : s.phase ≠ .idle) : PhaseMove s (stepEffect s) := by
  obtain ⟨fs, hfs, he⟩ := concurrentEffect_faults c (s := { s with host := rest }) hp
  have hstep : stepEffect s = { s with host := rest, fault := fs } := by simp only [stepEffect, hh, if_neg hp, he]
  exact hstep ▸ .inl ⟨hfs, rfl⟩

/-- An exchange records a breach of the link's contract or leads to AWAITING_RESPONSE. -/
theorem exchange_phaseMove (f : List Byte) {s : State} (hf : s.fault = [])
    (hp : s.phase = .sending ∨ s.phase = .wtxRetry) : PhaseMove s (exchange f s) := by
  rcases exchange_cases f s with ⟨-, he⟩ | ⟨-, -, he⟩ | ⟨-, -, he⟩
  · exact he ▸ phaseMove_raiseFault _ (callLink f s)
  · exact he ▸ phaseMove_raiseFault _ (callLink f s)
  · exact he ▸ phaseMove_of_edge hf rfl (by rcases hp with hp | hp <;> rw [hp] <;> rfl)

/-- A step that is no call outside IDLE. -/
theorem StepCase.phaseMove {s t : State} (h : StepCase s t) (hf : s.fault = [])
    (hc : ∀ c rest, s.host = .issueNow c :: rest → s.phase = .idle) : PhaseMove s t := by
  cases h with
  | command c rest _ hh ht he => exact ht.phaseMove hf (hh.elim And.left (hc c rest))
  | writeReq bs rest hp hh => exact phaseMove_of_edge hf rfl (by simp [hp, phaseEdge])
  | writeResp bs rest hp hh => exact phaseMove_of_edge hf rfl (by simp [hp, phaseEdge])
  | waited hp => exact phaseMove_of_edge hf rfl (by simp [hp, phaseEdge])
  | sent hp hl => exact exchange_phaseMove _ hf hp
  | sentOutside hp hl => exact phaseMove_raiseFault _ s
  | failed e hp => exact phaseMove_of_edge hf rfl (by rw [hp]; rfl)
  | receivedOutside hp hl => exact phaseMove_raiseFault _ s
  | delivered payload hp hl => exact phaseMove_of_edge hf rfl (by rw [hp]; rfl)
  | acknowledged m hp hn h4 => exact phaseMove_of_edge hf rfl (by rw [hp]; rfl)
  | acknowledgedOutside hp h4 => exact phaseMove_raiseFault _ s
  | reported hp => exact phaseMove_of_edge hf rfl (by rcases hp with hp | hp <;> rw [hp] <;> rfl)

theorem stepEffect_phaseMove {s : State} (hf : s.fault = []) : PhaseMove s (stepEffect s) := by
  by_cases hc : ∃ c rest, s.host = .issueNow c :: rest ∧ s.phase ≠ .idle
  · obtain ⟨c, rest, hh, hp⟩ := hc
    exact phaseMove_of_concurrent hh hp
  · exact (stepEffect_case s).phaseMove hf fun c rest hh => by_contra fun hp => hc ⟨c, rest, hh, hp⟩

/-- Settles O46. -/
theorem phaseTakesListedEdgesOnly : Obligations.PhaseTakesListedEdgesOnly := by
  intro s t hstep
  obtain ⟨hf, rfl⟩ := step_eq_next hstep
  rcases stepEffect_phaseMove hf with ⟨hfault, hphase⟩ | ⟨hfault, hedge⟩
  · exact ⟨fun _ => hphase, fun h => absurd h hfault⟩
  · exact ⟨fun h => absurd hfault h, fun _ => hedge⟩

end Sys2Proof.Machine
end

section
/-! SUPPORT. O56: on the way to FAILED an attempt leaves SEQ, RESP_BUF and REQ_BUF alone and transmits at least once (41_session.md
R86). A step that does not deliver keeps the three, and SENDING is left by a transmission only. -/

namespace Sys2Proof.Machine

/-- What an attempt that delivers nothing leaves alone, and the link calls it has only added to. -/
structure AttemptKeeps (s t : State) : Prop where
  seq : t.seq = s.seq
  respBuf : t.respBuf = s.respBuf
  reqBuf : t.reqBuf = s.reqBuf
  calls : s.linkCalls.length ≤ t.linkCalls.length

theorem AttemptKeeps.trans {s t u : State} (h : AttemptKeeps s t) (h' : AttemptKeeps t u) : AttemptKeeps s u :=
  ⟨h'.seq.trans h.seq, h'.respBuf.trans h.respBuf, h'.reqBuf.trans h.reqBuf, h.calls.trans h'.calls⟩

@[simp] theorem exchange_reqBuf (f : List Byte) (s : State) : (exchange f s).reqBuf = s.reqBuf := by
  rcases exchange_cases f s with ⟨-, h⟩ | ⟨-, -, h⟩ | ⟨-, -, h⟩ <;> rw [h] <;> rfl

theorem CommandCase.attemptKeeps {s t : State} {c : Command} (h : CommandCase s c t)
    (hc : s.phase = .idle → c ≠ .resetSequence) : AttemptKeeps s t :=
  ⟨h.seq hc, h.respBuf, h.reqBuf, h.linkCalls ▸ le_rfl⟩

/-- A step of an attempt that does not deliver. -/
theorem StepCase.attemptKeeps {s t : State} (h : StepCase s t) (hs : inAttempt s.phase = true) (ht : t.phase ≠ .delivered) :
    AttemptKeeps s t := by
  have hbusy : s.phase ≠ .idle := by rintro hp; simp [hp, inAttempt] at hs
  cases h with
  | command c rest _ hh htc he =>
    have hk := htc.attemptKeeps fun hp => absurd hp hbusy
    exact ⟨hk.seq, hk.respBuf, hk.reqBuf, hk.calls⟩
  | writeReq bs rest hp hh => exact absurd hp hbusy
  | writeResp bs rest hp hh => exact absurd hp hbusy
  | waited hp => exact absurd hp hbusy
  | sent hp hl => exact ⟨exchange_seq _ s, exchange_respBuf _ s, exchange_reqBuf _ s, by simp⟩
  | delivered payload hp hl => exact absurd rfl ht
  | _ => exact ⟨rfl, rfl, rfl, le_rfl⟩

/-- A step out of SENDING transmits. -/
theorem StepCase.sending {s t : State} (h : StepCase s t) (hp : s.phase = .sending) :
    t.phase = .sending ∨ s.linkCalls.length < t.linkCalls.length := by
  cases h with
  | command c rest _ hh ht he => exact .inl (ht.phase.elim (·.trans hp) And.right)
  | sent _ hl => exact .inr (by simp)
  | sentOutside _ hl => exact .inl hp
  | _ => simp_all -- The other cases start in another phase.

/-- The attempt is in progress after every step of a run before the last. -/
def BusyUntil (k : Nat) (s : State) : Prop :=
  ∀ (j : Nat) (u : State), 0 < j → j < k → Host.Core.run core j s = .next u → inAttempt u.phase = true

theorem BusyUntil.tail {k : Nat} {s u : State} (h : BusyUntil (k + 1) s) (hstep : step s = .next u) : BusyUntil k u :=
  fun j v _ hj hrun => h (j + 1) v (by omega) (by omega) (by rw [run_of_step hstep]; exact hrun)

/-- The first step of such a run ends it or leads to a state with the attempt in progress. -/
theorem BusyUntil.first {k : Nat} {s u t : State} (h : BusyUntil (k + 1) s) (hstep : step s = .next u)
    (hrun : Host.Core.run core k u = .next t) : u = t ∨ inAttempt u.phase = true := by
  cases k with
  | zero => cases hrun; exact .inl rfl
  | succ k => exact .inr (h 1 u (by omega) (by omega) (by rw [run_of_step hstep]; rfl))

/-- The rest of a failing attempt from a state with the attempt in progress, by induction on its steps. -/
theorem run_attemptKeeps {k : Nat} {s t : State} (hs : inAttempt s.phase = true) (ht : t.phase = .failed)
    (hrun : Host.Core.run core k s = .next t) (hbusy : BusyUntil k s) :
    AttemptKeeps s t ∧ (s.phase = .sending → s.linkCalls.length < t.linkCalls.length) := by
  induction k generalizing s with
  | zero => cases hrun; simp [ht, inAttempt] at hs
  | succ k ih =>
    obtain ⟨u, hstep, hrest⟩ := run_first_step hrun
    obtain ⟨-, hcase⟩ := step_cases hstep
    rcases hbusy.first hstep hrest with rfl | hu
    · exact ⟨hcase.attemptKeeps hs (by simp [ht]), fun hp => (hcase.sending hp).resolve_left (by simp [ht])⟩
    · have hkeeps := hcase.attemptKeeps hs (by rintro hp; simp [hp, inAttempt] at hu)
      obtain ⟨hkeeps', hsent⟩ := ih hu hrest (hbusy.tail hstep)
      refine ⟨hkeeps.trans hkeeps', fun hp => ?_⟩
      rcases hcase.sending hp with hp' | hcalls
      · exact hkeeps.calls.trans_lt (hsent hp')
      · exact hcalls.trans_le hkeeps'.calls

/-- An operation that waits for IDLE has its effect there, and is out of the queue. -/
theorem step_issue_of_idle {s : State} {c : Command} {rest : List HostMove} (hf : s.fault = []) (hp : s.phase = .idle)
    (hh : s.host = .issue c :: rest) : step s = .next (commandEffect c { s with host := rest }) := by
  rw [step_of_live hf]
  simp only [stepEffect, hh, if_pos hp]

/-- Settles O56: TRANSCEIVE writes none of the three, and neither does the rest of the attempt. -/
theorem failedAttemptLeavesSeqAndBuffers : Obligations.FailedAttemptLeavesSeqAndBuffers := by
  intro k s t n maxLen rest hp hh hrun ht hbusy
  cases k with
  | zero => cases hrun; simp [hp] at ht
  | succ k =>
    obtain ⟨u, hstep, hrest⟩ := run_first_step hrun
    obtain ⟨hf, -⟩ := step_eq_next hstep
    have hcase := commandEffect_case (.transceive n maxLen) { s with host := rest }
    obtain rfl : commandEffect (.transceive n maxLen) { s with host := rest } = u := by
      simpa [step_issue_of_idle hf hp hh] using hstep
    generalize commandEffect (.transceive n maxLen) { s with host := rest } = u at hcase hstep hrest
    have hfirst : AttemptKeeps { s with host := rest } u := hcase.attemptKeeps (by simp)
    have hphase : u.phase = .idle ∨ u.phase = .sending := hcase.phase.imp (·.trans hp) And.right
    rcases BusyUntil.first hbusy hstep hrest with rfl | hu
    · simp [ht] at hphase
    · have hsending := hphase.resolve_left (by rintro hi; simp [hi, inAttempt] at hu)
      obtain ⟨hlast, hsent⟩ := run_attemptKeeps hu ht hrest (BusyUntil.tail hbusy hstep)
      obtain ⟨hseq, hresp, hreq, hcalls⟩ := hfirst.trans hlast
      have hcount : s.linkCalls.length < t.linkCalls.length := hfirst.calls.trans_lt (hsent hsending)
      exact ⟨hseq, hresp, hreq, t.linkCalls.length - s.linkCalls.length, by omega, by omega⟩

end Sys2Proof.Machine
end

section
/-! SUPPORT. O53 and O54: whole attempts (41_session.md R82, R83). An attempt is a TRANSCEIVE and then rounds of two steps, an
exchange and the reception of its answer; a round ends the attempt or comes back with one more WTX round-trip counted. -/

namespace Sys2Proof.Machine

/-! ### The start of an attempt -/

/-- A frame that fits TX_BUF is due, and neither a usage fault nor a concurrent call keeps the block from sending it. -/
structure Transmitting (s : State) : Prop where
  fault : s.fault = []
  params : s.params.ok
  caller : noConcurrentCall s.host
  phase : s.phase = .sending ∨ s.phase = .wtxRetry
  fits : txCount s ≤ s.params.frameBufCap

/-- The state after the first step of an attempt (41_session.md R68). -/
def begun (n k : Nat) (rest : List HostMove) (s : State) : State :=
  startAttempt (writeBytes s.txBuf 0 (requestFrame n s)) n k { s with host := rest }

theorem step_transceive {s : State} {n k : Nat} {rest : List HostMove} (hf : s.fault = []) (hp : s.phase = .idle)
    (hok : s.params.ok) (hh : s.host = .issue (.transceive n k) :: rest) (hn : n ≤ s.params.frameBufCap - 3) :
    step s = .next (begun n k rest s) := by
  rw [step_issue_of_idle hf hp hh, commandEffect_transceive_of_idle (s := { s with host := rest }) k hp hok hn]
  rfl

theorem transmitting_begun {s : State} {n : Nat} (k : Nat) {rest : List HostMove} (hf : s.fault = []) (hok : s.params.ok)
    (hrest : noConcurrentCall rest) (hn : n ≤ s.params.frameBufCap - 3) : Transmitting (begun n k rest s) where
  fault := hf
  params := hok
  caller := hrest
  phase := .inl rfl
  fits := by
    have h4 : 4 ≤ s.params.frameBufCap := hok
    have hcount : n + 3 ≤ s.params.frameBufCap := by omega
    exact hcount

/-! ### One round -/

/-- The state after an exchange whose answer is latched (41_session.md R69, R78). -/
def afterExchange (s : State) : State :=
  latchAnswer (linkAnswer s) (writeBytes s.rxBuf 0 (linkAnswer s).bytes) (callLink (readBytes s.txBuf 0 (txCount s)) s)

/-- The two steps of a round. -/
theorem Transmitting.run_round {s : State} (h : Transmitting s) (hbits : (linkAnswer s).bits ≤ s.params.rxCapBits)
    (hbytes : (linkAnswer s).bytes.length ≤ s.params.frameBufCap) :
    Host.Core.run core 2 s = .next (receiveEffect (afterExchange s)) := by
  have hbusy : s.phase ≠ .idle := by rcases h.phase with hp | hp <;> simp [hp]
  have hsend : step s = .next (afterExchange s) := by
    rw [step_of_busy h.fault h.caller hbusy, blockEffect_of_transmitting h.phase h.fits, exchange_of_fits _ hbits hbytes]
    rfl
  have hreceive : step (afterExchange s) = .next (receiveEffect (afterExchange s)) :=
    step_of_busy (s := afterExchange s) h.fault h.caller nofun
  rw [run_of_step hsend, run_of_step hreceive]
  rfl

/-- A reception ends the attempt or is answered with an acknowledgement, if the counter is not at the cap (41_session.md R76). -/
theorem receiveEffect_ends_or_retries {s : State} (hf : s.fault = []) (hok : s.params.ok) (hcaller : noConcurrentCall s.host)
    (hp : s.phase = .awaitingResponse) (hbits : s.rxBits ≤ s.params.rxCapBits) :
    (receiveEffect s).fault = [] ∧ (receiveEffect s).linkCalls = s.linkCalls ∧
      (((receiveEffect s).phase = .delivered ∨ (receiveEffect s).phase = .failed) ∨
        Transmitting (receiveEffect s) ∧ (receiveEffect s).wtxCnt = s.wtxCnt + 1 ∧ s.wtxCnt ≠ wtxCap) := by
  have hcase := receiveEffect_case hp
  generalize receiveEffect s = t at hcase
  cases hcase with
  | command c rest _ hh ht he =>
    rcases hh with ⟨hi, -⟩ | hh
    · simp [hp] at hi
    · exact absurd (by simp [hh]) (hcaller c)
  | failed e _ => exact ⟨hf, rfl, .inl (.inr rfl)⟩
  | receivedOutside _ hl => exact absurd (Nat.div_le_of_le_mul hbits) (Nat.not_le.2 hl)
  | delivered payload _ hl => exact ⟨hf, rfl, .inl (.inl rfl)⟩
  | acknowledged m _ hn h4 => exact ⟨hf, rfl, .inr ⟨⟨hf, hok, hcaller, .inr rfl, h4⟩, rfl, hn⟩⟩
  | acknowledgedOutside _ h4 => exact absurd hok (Nat.not_le.2 h4)
  | _ => simp_all -- The other cases start in another phase.

/-! ### Every attempt ends (41_session.md R83) -/

/-- The attempt ends within so many rounds, each of two steps and one link exchange. -/
def EndsWithin (rounds : Nat) (s : State) : Prop :=
  ∃ (k n : Nat) (t : State), k ≤ 2 * rounds ∧ Host.Core.run core k s = .next t ∧ t.fault = [] ∧
    (t.phase = .delivered ∨ t.phase = .failed) ∧ t.linkCalls.length = s.linkCalls.length + n ∧ 1 ≤ n ∧ n ≤ rounds

/-- What one round of an attempt makes of it, with a link that keeps its contract. -/
theorem Transmitting.round_ends_or_retries {s : State} (h : Transmitting s) (hk : linkKeeps s) :
    ∃ t : State, Host.Core.run core 2 s = .next t ∧ t.fault = [] ∧ t.linkCalls.length = s.linkCalls.length + 1 ∧
      ((t.phase = .delivered ∨ t.phase = .failed) ∨
        Transmitting t ∧ linkKeeps t ∧ t.wtxCnt = s.wtxCnt + 1 ∧ s.wtxCnt ≠ wtxCap) := by
  obtain ⟨hbits, hbytes, -⟩ := linkAnswer_keeps hk
  have hkeeps : linkKeeps (receiveEffect (afterExchange s)) :=
    (receiveEffect_case (s := afterExchange s) rfl).linkKeeps fun a ha => hk a (List.mem_of_mem_tail ha)
  obtain ⟨hf, hcalls, hend⟩ :=
    receiveEffect_ends_or_retries (s := afterExchange s) h.fault h.params h.caller rfl hbits
  refine ⟨_, h.run_round hbits hbytes, hf, by rw [hcalls]; simp [afterExchange], hend.imp_right ?_⟩
  rintro ⟨htrans, hcnt, hn⟩
  exact ⟨htrans, hkeeps, hcnt, hn⟩

/-- With `d` round-trips left below the cap at most `d + 1` rounds follow. -/
theorem Transmitting.endsWithin {d : Nat} {s : State} (h : Transmitting s) (hk : linkKeeps s) (hd : s.wtxCnt + d = wtxCap) :
    EndsWithin (d + 1) s := by
  induction d generalizing s with
  | zero =>
    obtain ⟨t, hround, hf, hcalls, hp | ⟨-, -, -, hn⟩⟩ := h.round_ends_or_retries hk
    · exact ⟨2, 1, t, le_rfl, hround, hf, hp, hcalls, le_rfl, le_rfl⟩
    · exact absurd hd hn
  | succ d ih =>
    obtain ⟨t, hround, hf, hcalls, hp | ⟨htrans, hkeeps, hcnt, -⟩⟩ := h.round_ends_or_retries hk
    · exact ⟨2, 1, t, by omega, hround, hf, hp, hcalls, le_rfl, by omega⟩
    · obtain ⟨k, n, u, hsteps, hrun, hfu, hpu, hlen, hmin, hmax⟩ := ih htrans hkeeps (by omega)
      exact ⟨2 + k, n + 1, u, by omega, run_trans hround hrun, hfu, hpu, by omega, by omega, by omega⟩

/-- Settles O54: one step begins the attempt and at most eleven rounds follow. -/
theorem everyAttemptEndsWithinTheBound : Obligations.EveryAttemptEndsWithinTheBound := by
  intro s n maxLen rest hf hp hok hrest hk hh hn
  have hbegun := transmitting_begun maxLen hf hok hrest hn
  obtain ⟨k, calls, t, hsteps, hrun, hft, hpt, hlen, h1, h2⟩ := hbegun.endsWithin (d := 10) hk rfl
  refine ⟨k + 1, calls, t, by omega, ?_, hft, hpt, hlen, h1, h2⟩
  rw [run_of_step (step_transceive hf hp hok hh hn)]
  exact hrun

/-! ### A link that always answers S(WTX) (41_session.md R82) -/

/-- A valid frame of 24 bits or more that has been received with success has its effect. -/
theorem receiveEffect_of_frame {s : State} {pcb : Byte} {payload : List Byte} (hok : s.rxStatus = .success)
    (hbits : s.rxBits = 8 * (payload.length + 3)) (hl : payload.length + 3 ≤ s.params.frameBufCap)
    (hread : readBytes s.rxBuf 0 (payload.length + 3) = buildFrame (crcOf s) pcb payload) :
    receiveEffect s = frameEffect pcb payload s := by
  have hstatus : linkOk s.rxStatus ≠ false := by simp [hok, linkOk]
  have hbytes : s.rxBits / 8 = payload.length + 3 := by omega
  rw [receiveEffect, if_neg hstatus, if_neg (by omega), hbytes, if_pos hl, hread, checkFrame_buildFrame]

theorem frameEffect_wtxPcb (payload : List Byte) (s : State) : frameEffect wtxPcb payload s = answerWtx payload s := by
  have htype : pcbType wtxPcb ≠ 0b00#2 := by decide
  rw [frameEffect, if_neg htype, if_pos rfl]

/-- After an exchange answered by an S(WTX), the session answers its multiplier. -/
theorem receiveEffect_of_wtxAnswer {s : State} {m : Byte} (ha : isWtxAnswer s.params m (linkAnswer s))
    (hw : s.rxBuf.wf = true) :
    ∃ more : List Byte, receiveEffect (afterExchange s) = answerWtx (m :: more) (afterExchange s) := by
  obtain ⟨hok, hbits, hlen, more, hbytes⟩ := ha
  have hl : (linkAnswer s).bytes.length = (m :: more).length + 3 := by rw [hbytes, buildFrame_length]
  have hread : readBytes (afterExchange s).rxBuf 0 ((m :: more).length + 3) = buildFrame (crcOf s) wtxPcb (m :: more) :=
    (readBytes_writeBytes_all hw hl).trans hbytes
  refine ⟨more, ?_⟩
  rw [receiveEffect_of_frame (s := afterExchange s) hok (hbits.trans (congrArg (8 * ·) hl)) (hl ▸ hlen) hread,
    frameEffect_wtxPcb]

/-! An S(WTX) answer fits RX_BUF. -/

theorem isWtxAnswer.bits_le {p : Params} {m : Byte} {a : LinkAnswer} (h : isWtxAnswer p m a) : a.bits ≤ p.rxCapBits := by
  obtain ⟨-, hbits, hlen, -⟩ := h
  rw [hbits]
  exact Nat.mul_le_mul_left 8 hlen

theorem isWtxAnswer.bytes_le {p : Params} {m : Byte} {a : LinkAnswer} (h : isWtxAnswer p m a) :
    a.bytes.length ≤ p.frameBufCap := by
  obtain ⟨-, -, hlen, -⟩ := h
  exact hlen

/-- The state after a round in which the multiplier is acknowledged. -/
def afterRetry (m : Byte) (s : State) : State :=
  queueAck (writeBytes s.txBuf 0 (encodeWtxAckFrame (crcOf s) m)) (afterExchange s)

theorem Transmitting.run_retry {s : State} {m : Byte} (h : Transmitting s) (hw : s.rxBuf.wf = true)
    (ha : isWtxAnswer s.params m (linkAnswer s)) (hn : s.wtxCnt ≠ wtxCap) :
    Host.Core.run core 2 s = .next (afterRetry m s) := by
  obtain ⟨more, hreceive⟩ := receiveEffect_of_wtxAnswer ha hw
  rw [h.run_round ha.bits_le ha.bytes_le, hreceive, answerWtx_of_below (s := afterExchange s) m more hn h.params]
  rfl

theorem Transmitting.run_spent {s : State} {m : Byte} (h : Transmitting s) (hw : s.rxBuf.wf = true)
    (ha : isWtxAnswer s.params m (linkAnswer s)) (hn : s.wtxCnt = wtxCap) :
    Host.Core.run core 2 s = .next (raiseFail .wtxExceeded (afterExchange s)) := by
  obtain ⟨more, hreceive⟩ := receiveEffect_of_wtxAnswer ha hw
  rw [h.run_round ha.bits_le ha.bytes_le, hreceive, answerWtx_of_spent (s := afterExchange s) m more hn]

theorem Transmitting.afterRetry {s : State} (h : Transmitting s) (m : Byte) : Transmitting (afterRetry m s) :=
  ⟨h.fault, h.params, h.caller, .inr rfl, h.params⟩

theorem linkAnswer_of_cons {s : State} {a : LinkAnswer} {rest : List LinkAnswer} (h : s.linkAnswers = a :: rest) :
    linkAnswer s = a := by
  simp only [linkAnswer, h]

/-- Outside the attempt registers an exchange answered from the list takes the answer and adds the call. -/
theorem afterExchange_of_cons {s : State} {a : LinkAnswer} {rest : List LinkAnswer} (h : s.linkAnswers = a :: rest) :
    sameOutside { s with linkCalls := s.linkCalls ++ [callOf s.params (readBytes s.txBuf 0 (txCount s))],
                         linkAnswers := rest, phase := .awaitingResponse } (afterExchange s) := by
  simp only [sameOutside, afterExchange, callLink, h]
  rfl

theorem afterRetry_of_cons {s : State} {a : LinkAnswer} {rest : List LinkAnswer} (m : Byte) (h : s.linkAnswers = a :: rest) :
    sameOutside { s with linkCalls := s.linkCalls ++ [callOf s.params (readBytes s.txBuf 0 (txCount s))],
                         linkAnswers := rest, phase := .wtxRetry } (afterRetry m s) :=
  congrArg (queueAck (writeBytes s.txBuf 0 (encodeWtxAckFrame (crcOf s) m))) (afterExchange_of_cons h)

theorem sameOutside.trans {s t u : State} (h : sameOutside s t) (h' : sameOutside t u) : sameOutside s u := by
  obtain ⟨r, rfl⟩ := sameOutside_iff.1 h
  obtain ⟨r', rfl⟩ := sameOutside_iff.1 h'
  exact sameOutside_iff.2 ⟨r', rfl⟩

/-- The link call that acknowledges a multiplier. -/
def ackCall (s : State) (m : Byte) : LinkCall := callOf s.params (encodeWtxAckFrame (crcOf s) m)

/-- The state in which the attempt has failed at the cap after these link calls, with these answers left. -/
def failedAtCap (calls : List LinkCall) (left : List LinkAnswer) (s : State) : State :=
  { s with linkCalls := s.linkCalls ++ calls, linkAnswers := left, outcome := some (.failed .wtxExceeded), phase := .failed }

/-- The calls of a round before the failure come first. -/
theorem failedAtCap_of_sameOutside {calls : List LinkCall} {call : LinkCall} {left rest : List LinkAnswer} {p : Phase}
    {s t : State} (h : sameOutside { s with linkCalls := s.linkCalls ++ [call], linkAnswers := rest, phase := p } t) :
    sameOutside (failedAtCap (call :: calls) left s) (failedAtCap calls left t) := by
  obtain ⟨r, rfl⟩ := sameOutside_iff.1 h
  have hcalls : failedAtCap (call :: calls) left s =
      failedAtCap calls left { s with linkCalls := s.linkCalls ++ [call] } := by simp [failedAtCap]
  exact sameOutside_iff.2 ⟨r, by rw [hcalls]; rfl⟩

/-- Rounds against S(WTX) answers: those before the last are acknowledged and the last one is one too many. -/
theorem Transmitting.run_rounds {ms : List Byte} {last : Byte} {answers left : List LinkAnswer} {s : State}
    (h : Transmitting s) (htx : s.txBuf.wf = true) (hrx : s.rxBuf.wf = true)
    (ha : List.Forall₂ (isWtxAnswer s.params) (ms ++ [last]) answers) (hl : s.linkAnswers = answers ++ left)
    (hd : s.wtxCnt + ms.length = wtxCap) :
    ∃ t : State, Host.Core.run core (2 * (ms.length + 1)) s = .next t ∧
      sameOutside (failedAtCap (callOf s.params (readBytes s.txBuf 0 (txCount s)) :: ms.map (ackCall s)) left s) t := by
  induction ms generalizing s answers with
  | nil =>
    obtain ⟨a, rest, hwtx, hrest, rfl⟩ := List.forall₂_cons_left_iff.1 ha
    obtain rfl := List.forall₂_nil_left_iff.1 hrest
    obtain rfl := linkAnswer_of_cons hl
    refine ⟨_, h.run_spent hrx hwtx hd, ?_⟩
    exact congrArg (raiseFail .wtxExceeded) (afterExchange_of_cons hl)
  | cons m ms ih =>
    obtain ⟨a, rest, hwtx, hrest, rfl⟩ := List.forall₂_cons_left_iff.1 ha
    obtain rfl := linkAnswer_of_cons hl
    have hcount : s.wtxCnt + 1 + ms.length = wtxCap := by rw [← hd, List.length_cons]; omega
    have hframe : readBytes (Machine.afterRetry m s).txBuf 0 4 = encodeWtxAckFrame (crcOf s) m :=
      readBytes_queueAck m htx
    have hround := h.run_retry hrx hwtx (by omega)
    have hout := afterRetry_of_cons m hl
    have hleft : (Machine.afterRetry m s).linkAnswers = rest ++ left := congrArg List.tail hl
    obtain ⟨t, hrun, ht⟩ := ih (h.afterRetry m) (wf_writeBytes 0 _ htx) (wf_writeBytes 0 _ hrx) hrest hleft hcount
    have hcalls : callOf s.params (readBytes (Machine.afterRetry m s).txBuf 0 4) :: ms.map (ackCall s) =
        (m :: ms).map (ackCall s) := by rw [hframe]; rfl
    refine ⟨t, ?_, hcalls ▸ (failedAtCap_of_sameOutside hout).trans ht⟩
    rw [List.length_cons, show 2 * (ms.length + 1 + 1) = 2 + 2 * (ms.length + 1) by omega]
    exact run_trans hround hrun

/-- The answers one by one, as a relation of the two lists. -/
theorem forall₂_isWtxAnswer {p : Params} {ms : List Byte} {answers : List LinkAnswer} (hl : ms.length = answers.length)
    (h : ∀ (k : Nat) (m : Byte) (a : LinkAnswer), ms[k]? = some m → answers[k]? = some a → isWtxAnswer p m a) :
    List.Forall₂ (isWtxAnswer p) ms answers :=
  List.forall₂_iff_get.2 ⟨hl, fun k hm ha => h k _ _ (List.getElem?_eq_getElem hm) (List.getElem?_eq_getElem ha)⟩

/-- The step after the failure reports it. -/
theorem step_of_failedAtCap {calls : List LinkCall} {left : List LinkAnswer} {s t : State}
    (h : sameOutside (failedAtCap calls left s) t) (hf : s.fault = []) (hc : noConcurrentCall s.host) :
    step t = .next (report t) := by
  obtain ⟨r, rfl⟩ := sameOutside_iff.1 h
  exact step_of_busy (s := (failedAtCap calls left s).withAttemptRegs r) hf hc nofun

/-- Settles O53: one step begins the attempt, eleven rounds follow, and the report is the last step. -/
theorem alwaysWtxLinkEndsAfterTenRoundTrips : Obligations.AlwaysWtxLinkEndsAfterTenRoundTrips := by
  intro s n maxLen ms answers more rest hf hp hok hbuf hrest hh hn hl hms hans hwtx
  obtain ⟨ten, last, rfl⟩ := (List.eq_nil_or_concat' ms).resolve_left (by rintro rfl; cases hms)
  have hten : ten.length = 10 := by simpa using hms
  have hbegun := transmitting_begun maxLen hf hok hrest hn
  obtain ⟨t, hrounds, ht⟩ := hbegun.run_rounds (wf_writeBytes 0 _ hbuf.tx) hbuf.rx
    (forall₂_isWtxAnswer (hms.trans hans.symm) hwtx) hl (by rw [hten]; rfl)
  have hrun : Host.Core.run core 24 s = .next (report t) := by
    rw [show 24 = (2 * (ten.length + 1) + 1) + 1 by omega, run_of_step (step_transceive hf hp hok hh hn)]
    exact run_trans hrounds (run_of_step (step_of_failedAtCap ht hf hrest))
  have htake : (ten ++ [last]).take 10 = ten := List.take_left' hten
  have hframe : readBytes (begun n maxLen rest s).txBuf 0 (n + 3) = requestFrame n s :=
    readBytes_startAttempt n maxLen hbuf.tx
  obtain ⟨r, rfl⟩ := sameOutside_iff.1 ht
  refine ⟨_, hrun, rfl, hf, rfl, rfl, rfl, rfl, ?_⟩
  rw [htake, ← requestFrame, ← hframe]
  rfl

end Sys2Proof.Machine
end

section
/-! SUPPORT. O47, O20, O21: the link port (42_interfaces.md R91 to R93). A step calls the link at most once; a free draw keeps the
contract of the port; an answer that breaks it is recorded and not latched. -/

namespace Sys2Proof.Machine

/-- Settles O47: the call is that of the one exchange a step can make. -/
theorem linkIsCalledInTwoPhasesOnly : Obligations.LinkIsCalledInTwoPhasesOnly := by
  intro s t hstep
  obtain ⟨-, hcase⟩ := step_cases hstep
  exact hcase.linkCalls.imp_right fun ⟨hp, hcalls⟩ => ⟨hp, _, hcalls⟩

/-! ### The free draw -/

/-- With no answer listed the link's answer is a free draw (log entry 4). -/
theorem linkAnswer_of_nil {s : State} (h : s.linkAnswers = []) :
    linkAnswer s = drawnAnswer s.params.rxCapBits s.draws := by
  simp only [linkAnswer, h]

/-- A free draw has the bytes its bit count fills (42_interfaces.md R92 (d)). -/
theorem drawnAnswer_bytes_length (capBits n : Nat) :
    (drawnAnswer capBits n).bytes.length = byteCountUp (drawnAnswer capBits n).bits := by
  simp [drawnAnswer]

/-- Settles O20: the draw is bounded by RX_CAP_BITS, and its bytes are counted from its bits. -/
theorem freeDrawKeepsLinkContract : Obligations.FreeDrawKeepsLinkContract := by
  intro s h
  obtain ⟨hbits, hbytes, -⟩ := drawnAnswer_keeps s.params s.draws
  rw [linkAnswer_of_nil h]
  exact ⟨hbits, drawnAnswer_bytes_length _ _, hbytes⟩

/-! ### The breach of the contract -/

/-- More bits than RX_CAP_BITS: LinkContract (decision D15). -/
theorem exchange_of_tooManyBits {s : State} (f : List Byte) (h : s.params.rxCapBits < (linkAnswer s).bits) :
    exchange f s = raiseFault .linkContract (callLink f s) :=
  if_pos h

/-- More bytes than RX_BUF holds: OutOfBounds (log entry 19). -/
theorem exchange_of_tooManyBytes {s : State} (f : List Byte) (hbits : (linkAnswer s).bits ≤ s.params.rxCapBits)
    (hbytes : s.params.frameBufCap < (linkAnswer s).bytes.length) :
    exchange f s = raiseFault .outOfBounds (callLink f s) := by
  rcases exchange_cases f s with ⟨h, -⟩ | ⟨-, -, h⟩ | ⟨-, h, -⟩
  · exact absurd hbits (Nat.not_le.2 h)
  · exact h
  · exact absurd hbytes (Nat.not_lt.2 h)

/-- A usage fault after the link call: the call is recorded, its answer consumed, and the rest stays. -/
theorem raiseFault_callLink (u : UsageFault) (f : List Byte) {s : State} (hf : s.fault = []) :
    raiseFault u (callLink f s) =
      { s with fault := [u], linkCalls := (callLink f s).linkCalls, linkAnswers := s.linkAnswers.tail,
               draws := (callLink f s).draws } :=
  raiseFault_of_live u (s := callLink f s) hf

/-- Settles O21: the step is the exchange, and the bits are checked before the bytes. -/
theorem linkContractBreachIsRecorded : Obligations.LinkContractBreachIsRecorded := by
  intro s hf hp hm hl
  have hstep : step s = .next (exchange (readBytes s.txBuf 0 (txCount s)) s) := by
    rw [step_of_no_callerMove hf hm, blockEffect_of_transmitting hp hl]
  refine ⟨fun hbits => ⟨_, hstep, ?_⟩, fun hbits hbytes => ⟨_, hstep, ?_⟩⟩
  · rw [exchange_of_tooManyBits _ hbits]
    exact raiseFault_callLink _ _ hf
  · rw [exchange_of_tooManyBytes _ hbits hbytes]
    exact raiseFault_callLink _ _ hf

end Sys2Proof.Machine
end

section
/-! SUPPORT. O30: a call that arrives outside IDLE (42_interfaces.md R97, decision D13). -/

namespace Sys2Proof.Machine

/-- Outside IDLE an immediate call is taken out of the queue and handled as a concurrent one. -/
theorem step_of_concurrentCall {s : State} {c : Command} {rest : List HostMove} (hf : s.fault = []) (hp : s.phase ≠ .idle)
    (hh : s.host = .issueNow c :: rest) : step s = runFetched (concurrentCall c { s with host := rest }) := by
  rw [step_of_callerMove hf (callerMove_issueNow hh), callNow, if_neg hp]

/-- Settles O30: TRANSCEIVE and RESET_SEQUENCE record their own faults, and the three codec operations share Reentry. -/
theorem concurrentCallIsAUsageFault : Obligations.ConcurrentCallIsAUsageFault := by
  intro s c rest hf hp hh
  have hstep := step_of_concurrentCall hf hp hh
  have hreentry : runFetched (.move (raiseFault .reentry { s with host := rest })) =
      .next { s with host := rest, fault := [.reentry] } :=
    congrArg _ (raiseFault_of_live .reentry (s := { s with host := rest }) hf)
  cases c with
  | transceive n k =>
    obtain ⟨hfits, -, hlarge⟩ := transceiveRecordsBrokenPreconditions { s with host := rest } n k hf
    by_cases hn : s.params.frameBufCap - 3 < n
    · simp only [if_pos hn]
      exact hstep.trans (hlarge hp hn)
    · simp only [if_neg hn]
      exact hstep.trans (hfits hp (Nat.le_of_not_lt hn))
  | resetSequence => exact hstep.trans (exec_resetSequence_of_busy (s := { s with host := rest }) hf hp)
  | encodeI q payload => exact hstep.trans hreentry
  | encodeWtxAck m => exact hstep.trans hreentry
  | decode raw => exact hstep.trans hreentry

end Sys2Proof.Machine
end

section
/-! SUPPORT. O34, O49, O37: a reception from its 24th bit on is decided in the order of 60_exceptions.md R103, a failure saves its
outcome and nothing else (R104), and a recorded usage fault stops the block (R102). -/

namespace Sys2Proof.Machine

/-! ### The order of the checks (60_exceptions.md R103) -/

/-- Once the whole bytes of a reception are read, their CRC decides whether the PCB is looked at. A trailing partial byte does
not count (decision D5). -/
theorem receiveEffect_of_read {s : State} {pcb c0 c1 : Byte} {payload : List Byte} (hok : s.rxStatus = .success)
    (hbits : 24 ≤ s.rxBits) (hl : s.rxBits / 8 ≤ s.params.frameBufCap)
    (hread : readBytes s.rxBuf 0 (s.rxBits / 8) = pcb :: payload ++ [c0, c1]) :
    receiveEffect s =
      if crcOf s (pcb :: payload) = (c0, c1) then frameEffect pcb payload s else raiseFail .crcMismatch s := by
  have hstatus : linkOk s.rxStatus ≠ false := by simp [hok, linkOk]
  rw [receiveEffect, if_neg hstatus, if_neg (Nat.not_lt.2 hbits), if_pos hl, hread]
  by_cases hcrc : crcOf s (pcb :: payload) = (c0, c1)
  · rw [append_eq_buildFrame hcrc, checkFrame_buildFrame, if_pos hcrc]
  · rw [checkFrame_append, if_neg fun h => hcrc (crcPair_bytes_inj.1 h.symm), if_neg hcrc]
    rfl

/-- The PCBs below 0x40 are the I-blocks (30_encoding.md R44). -/
theorem frameEffect_of_iBlock {pcb : Byte} (payload : List Byte) (s : State) (h : pcb.toNat < 0x40) :
    frameEffect pcb payload s = acceptResponse payload s :=
  if_pos ((pcbType_eq_iff pcb 0b00#2).2 (Nat.div_eq_of_lt h))

/-- A frame that is no I-block and no S(WTX) with a multiplier is UnsupportedBlock (41_session.md R76, R77; decisions D6, D7). -/
theorem frameEffect_of_unsupported {pcb : Byte} {payload : List Byte} (s : State) (h : ¬ pcb.toNat < 0x40)
    (hwtx : ¬ (pcb = wtxPcb ∧ payload ≠ [])) : frameEffect pcb payload s = raiseFail .unsupportedBlock s := by
  by_cases hpcb : pcb = wtxPcb
  · obtain rfl : payload = [] := by_contra fun hne => hwtx ⟨hpcb, hne⟩
    rw [hpcb, frameEffect_wtxPcb, answerWtx_nil]
  · have htype : pcbType pcb ≠ 0b00#2 := fun h0 =>
      h ((Nat.div_eq_zero_iff_lt (by decide)).1 ((pcbType_eq_iff pcb 0b00#2).1 h0))
    rw [frameEffect, if_neg htype, if_neg hpcb]

/-- Rule R75 on a payload that MAX_RESP does not allow. -/
theorem acceptResponse_of_tooLarge {s : State} {payload : List Byte} (h : s.maxResp < payload.length) :
    acceptResponse payload s = raiseFail .responseTooLarge s := by
  rw [acceptResponse_eq, if_pos h]

/-- Rule R75 on a payload that MAX_RESP allows. -/
theorem acceptResponse_of_fits {s : State} {payload : List Byte} (h : ¬ s.maxResp < payload.length) :
    acceptResponse payload s = deliver (writeBytes s.respBuf 0 payload) payload.length s := by
  rw [acceptResponse_eq, if_neg h]

/-- Settles O34: the branches of R103 in their order, each with the effect the session gives it. -/
theorem receptionIsDecidedInOrder : Obligations.ReceptionIsDecidedInOrder := by
  intro s pcb c0 c1 payload hf hm hp hok hbits h4 hl hread
  have hstep : step s =
      .next (if crcOf s (pcb :: payload) = (c0, c1) then frameEffect pcb payload s else raiseFail .crcMismatch s) := by
    rw [step_of_no_callerMove hf hm, blockEffect_of_awaiting hp, receiveEffect_of_read hok hbits hl hread]
  have hframe {t : State} (hcrc : ¬ crcOf s (pcb :: payload) ≠ (c0, c1)) (ht : frameEffect pcb payload s = t) :
      step s = .next t := by
    rw [hstep, if_pos (not_not.1 hcrc), ht]
  split_ifs with hcrc hI hsize hwtx hspent
  · exact ⟨raiseFail .crcMismatch s, by rw [hstep, if_neg hcrc], hf, rfl, rfl, rfl, rfl⟩
  · have ht := (frameEffect_of_iBlock payload s hI).trans (acceptResponse_of_tooLarge hsize)
    exact ⟨_, hframe hcrc ht, hf, rfl, rfl, rfl, rfl⟩
  · have ht := (frameEffect_of_iBlock payload s hI).trans (acceptResponse_of_fits hsize)
    exact ⟨_, hframe hcrc ht, hf, rfl, rfl, rfl⟩
  · obtain ⟨rfl, hne⟩ := hwtx
    obtain ⟨m, more, rfl⟩ := List.exists_cons_of_ne_nil hne
    have ht := (frameEffect_wtxPcb (m :: more) s).trans (answerWtx_of_spent m more hspent)
    exact ⟨_, hframe hcrc ht, hf, rfl, rfl, rfl, rfl⟩
  · obtain ⟨rfl, hne⟩ := hwtx
    obtain ⟨m, more, rfl⟩ := List.exists_cons_of_ne_nil hne
    have ht := (frameEffect_wtxPcb (m :: more) s).trans (answerWtx_of_below m more hspent h4)
    exact ⟨_, hframe hcrc ht, hf, rfl, rfl, rfl, rfl, rfl⟩
  · exact ⟨_, hframe hcrc (frameEffect_of_unsupported s hI hwtx), hf, rfl, rfl, rfl, rfl⟩

/-! ### Taking a failure and the way back (60_exceptions.md R104, 41_session.md R79) -/

/-- FAILED is entered from AWAITING_RESPONSE, by raising a failure. -/
theorem StepCase.raisesFail {s t : State} (h : StepCase s t) (hs : s.phase ≠ .failed) (ht : t.phase = .failed) :
    s.phase = .awaitingResponse ∧ ∃ e : TransceiveError, t = raiseFail e s := by
  cases h with
  | command c rest _ hh htc he =>
    rcases htc.phase with hp | ⟨-, hp⟩
    · exact absurd (hp.symm.trans ht) hs
    · simp [ht] at hp
  | sent hp hl =>
    rcases exchange_phase (readBytes s.txBuf 0 (txCount s)) s with he | he
    · exact absurd (he.symm.trans ht) hs
    · simp [ht] at he
  | failed e hp => exact ⟨hp, e, rfl⟩
  | delivered payload hp hl => cases ht
  | acknowledged m hp hn h4 => cases ht
  | reported hp => cases ht
  | _ => exact absurd ht hs -- The other cases keep the phase.

theorem exec_transceive_of_idle {s : State} {n : Nat} (k : Nat) (hf : s.fault = []) (hp : s.phase = .idle)
    (hok : s.params.ok) (hn : n ≤ s.params.frameBufCap - 3) :
    exec (.transceive n k) s = .next (startAttempt (writeBytes s.txBuf 0 (requestFrame n s)) n k s) := by
  rw [exec_transceive, live_of_live _ hf, commandEffect_transceive_of_idle k hp hok hn]

/-- Settles O49: the failure is raised in one step, reported in the next, and leaves a block in IDLE without a usage fault. -/
theorem failureSavesTheOutcomeOnly : Obligations.FailureSavesTheOutcomeOnly := by
  intro s t hstep hs ht
  obtain ⟨hf, hcase⟩ := step_cases hstep
  obtain ⟨hp, e, rfl⟩ := hcase.raisesFail hs ht
  refine ⟨hp, e, rfl, fun hm => ?_⟩
  obtain ⟨u, hreport, hu⟩ := terminalPhaseReportsAndReturns (raiseFail e s) hf hm (.inr rfl)
  exact ⟨u, hreport, hu, fun n k hok hn => ⟨_, exec_transceive_of_idle k (hu.fault.trans hf) hu.phase hok hn, rfl⟩⟩

/-! ### The stop of a faulted block (60_exceptions.md R102) -/

/-- Every meaning is behind the guard of a phase or the live guard, and both stop a faulted block. -/
theorem exec_of_faulted (i : Instr) {s : State} (h : s.fault ≠ []) : exec i s = .fault .halted := by
  cases i with
  | iBlockTxSeq0 payload => exact inPhase_of_faulted _ h
  | iBlockTxSeq1 payload => exact inPhase_of_faulted _ h
  | sWtxAckTx m => exact inPhase_of_faulted _ h
  | iBlockRx flags seq payload => exact inPhase_of_faulted _ h
  | unclassifiedRx low body => exact inPhase_of_faulted _ h
  | rBlockRx low body => exact inPhase_of_faulted _ h
  | sWtxRx payload => exact inPhase_of_faulted _ h
  | sOtherRx low body => exact inPhase_of_faulted _ h
  | transceive n k => exact (exec_transceive n k s).trans (live_of_faulted _ h)
  | resetSequence => exact (exec_resetSequence s).trans (live_of_faulted _ h)
  | encodeI seq payload => exact (exec_encodeI seq payload s).trans (live_of_faulted _ h)
  | encodeWtxAck m => exact (exec_encodeWtxAck m s).trans (live_of_faulted _ h)
  | decode raw => exact (exec_decode raw s).trans (live_of_faulted _ h)

/-- Settles O37: FAULT alone decides between the stop and a next state. -/
theorem onlyAFaultedBlockStops : Obligations.OnlyAFaultedBlockStops := fun _ =>
  ⟨fun h => ⟨step_of_faulted h, fun i => exec_of_faulted i h⟩, fun h => ⟨_, step_of_live h⟩⟩

end Sys2Proof.Machine
end

section
/-! SUPPORT. O36, O38, O39: the waiting block, the caller's layouts between operations (42_interfaces.md R97), and the state after
power-on (70_reset_and_hazards.md R109, R111). -/

namespace Sys2Proof.Machine

/-! ### IDLE -/

theorem step_of_idle_waiting {s : State} (hf : s.fault = []) (hp : s.phase = .idle) (hh : s.host = []) :
    step s = .next s := by
  rw [step_of_live hf]
  simp only [stepEffect, hh, blockEffect, hp]

theorem step_writeReq_of_idle {s : State} {bs : List Byte} {rest : List HostMove} (hf : s.fault = []) (hp : s.phase = .idle)
    (hh : s.host = .writeReq bs :: rest) :
    step s = .next { s with reqBuf := writeBytes s.reqBuf 0 bs, host := rest } := by
  rw [step_of_live hf]
  simp only [stepEffect, hh, if_pos hp]

theorem step_writeResp_of_idle {s : State} {bs : List Byte} {rest : List HostMove} (hf : s.fault = []) (hp : s.phase = .idle)
    (hh : s.host = .writeResp bs :: rest) :
    step s = .next { s with respBuf := writeBytes s.respBuf 0 bs, host := rest } := by
  rw [step_of_live hf]
  simp only [stepEffect, hh, if_pos hp]

/-- Bytes laid out from index 0 are read there, and the buffer beyond them is as before. -/
theorem layout_reads {m : Memory} (bs : List Byte) (h : m.wf = true) :
    readBytes (writeBytes m 0 bs) 0 bs.length = bs ∧
      ∀ a : Nat, bs.length ≤ a → readByte (writeBytes m 0 bs) a = readByte m a :=
  ⟨readBytes_writeBytes 0 bs h, fun _ ha => readByte_writeBytes_other bs (.inr (by simpa using ha))⟩

/-- Settles O36, by the caller's next move: none, or a layout of one of its two buffers. -/
theorem idleWaitsForTheCaller : Obligations.IdleWaitsForTheCaller := by
  intro s hf hp hreq hresp
  refine ⟨fun hh => ?_, fun bs rest hh => ?_, fun bs rest hh => ?_⟩
  · exact ⟨s, step_of_idle_waiting hf hp hh, rfl⟩
  · exact ⟨_, step_writeReq_of_idle hf hp hh, rfl, layout_reads bs hreq⟩
  · exact ⟨_, step_writeResp_of_idle hf hp hh, rfl, layout_reads bs hresp⟩

/-! ### Power-on -/

/-- In IDLE the invariant asks for legal parameters and canonical buffers alone: its other clauses speak of other phases. -/
theorem stateInv_of_idle {s : State} (hok : s.params.ok) (hbuf : BuffersWf s) (hp : s.phase = .idle) : StateInv s where
  params := hok
  buffers := hbuf
  wtxBound h := by simp [hp, inAttempt] at h
  noOutcome h := by simp [hp, inAttempt] at h
  deliveredOutcome h := by simp [hp] at h
  failedOutcome h := by simp [hp] at h
  sendingFrame h := by simp [hp] at h
  retryFrame h := by simp [hp] at h
  rxBound h := by simp [hp] at h

/-- After power-on the four buffers are empty (log entry 6). -/
theorem buffersWf_powerOn (p : Params) : BuffersWf (State.powerOn p) := ⟨rfl, rfl, rfl, rfl⟩

theorem stateInv_powerOn {p : Params} (h : p.ok) : StateInv (State.powerOn p) :=
  stateInv_of_idle h (buffersWf_powerOn p) rfl

/-- The capacity of the parameters at reset is 32 (log entry 1). -/
theorem default_ok : Params.default.ok := by decide

/-- Settles O39: the block powers on in IDLE with empty buffers, and reset is a power-on with legal parameters. -/
theorem invariantHoldsAtReset : Obligations.InvariantHoldsAtReset :=
  ⟨fun _ => stateInv_powerOn, stateInv_powerOn default_ok⟩

/-- Settles O38: the registers are read off the definition of the power-on state. -/
theorem powerOnState : Obligations.PowerOnState := fun _ => ⟨rfl, rfl, rfl, rfl, rfl, rfl⟩

end Sys2Proof.Machine
end
